-- ==== Sys2Proof/Word.lean ====
section
/-! DEFINITION. The word types of the block: the widths of `spec/00_scope.md` R9 to R13 and of the
port words of `spec/30_encoding.md` R70 and R74. -/

namespace Sys2Proof

/-- A register cell or byte operand: `REG_W = 8` (R9, R13). -/
abbrev Byte := BitVec 8

/-- A pair value: `PAIR_W = 16` (R10). -/
abbrev Word := BitVec 16

/-- A 3-bit field: flag key, register code, address-pair code or bit offset (R13). -/
abbrev Code := BitVec 3

/-- A 2-bit pair-select field (R13). -/
abbrev Selector := BitVec 2

/-- The request word of the command port (R70). -/
abbrev RequestWord := BitVec 40

/-- The response word (R74). -/
abbrev ResponseWord := BitVec 40

end Sys2Proof
end

