-- ==== Sys2Proof/Syntax.lean ====
section
/-! DEFINITION. The commands of the block: one constructor per row of `spec/opcode_table.json`
(`spec/30_encoding.md` R72, R73). A constructor carries exactly the request fields its command uses;
every other field is ignored (R71). -/

namespace Sys2Proof

/-- A command of the block. The key, code and offset operands are raw 3-bit fields (R13): whether one
names a flag, a cell or a pair is decided by the command (R100, R140, R143), not by the decoder. -/
inductive Instr where
  /-- NOP, op 0x00 (R180). -/
  | nop
  /-- FSET k, op 0x01 (R101). -/
  | fset (k : Code)
  /-- FCLR k, op 0x02 (R102). -/
  | fclr (k : Code)
  /-- FGET k, op 0x03 (R103). -/
  | fget (k : Code)
  /-- FPUT k, b, op 0x04 (R104). -/
  | fput (k : Code) (b : Byte)
  /-- FCLRALL, op 0x05 (R105). -/
  | fclrall
  /-- FITER, op 0x06 (R106). -/
  | fiter
  /-- FPAR b, op 0x07 (R107). -/
  | fpar (b : Byte)
  /-- FZERO b, op 0x08 (R108). -/
  | fzero (b : Byte)
  /-- FSIGN b, op 0x09 (R109). -/
  | fsign (b : Byte)
  /-- RGET k, op 0x10 (R141). -/
  | rget (k : Code)
  /-- RPUT k, b, op 0x11 (R142). -/
  | rput (k : Code) (b : Byte)
  /-- PADDR k, op 0x12 (R143). -/
  | paddr (k : Code)
  /-- PGET phi, plo, op 0x13 (R144). -/
  | pget (phi plo : Code)
  /-- PPUT phi, plo, w, op 0x14 (R145). -/
  | pput (phi plo : Code) (w : Word)
  /-- ROPC b, k (opcode byte, then bit offset), op 0x15 (R146). -/
  | ropc (b : Byte) (k : Code)
  /-- PSEL sel, op 0x16 (R147). -/
  | psel (sel : Selector)
  /-- Reserved command numbers 0x0A to 0x0F and 0x17 to 0x1F (R73, R181). -/
  | reserved0A
  | reserved0B
  | reserved0C
  | reserved0D
  | reserved0E
  | reserved0F
  | reserved17
  | reserved18
  | reserved19
  | reserved1A
  | reserved1B
  | reserved1C
  | reserved1D
  | reserved1E
  | reserved1F
  deriving DecidableEq, Repr

end Sys2Proof
end

