-- ==== Sys2Proof/WellFormed.lean ====
section
/-! DEFINITION. Which operand values can be presented at the command port.
`spec/00_scope.md` R13 gives each field a width, and a wider value is "not representable at the ports"
(`spec/93_implementation_defined.md` row 10). The operands of `Instr` have those widths as types, so
every `Instr` passes; a set of unbounded numbers, as software would hold them, may not. -/

namespace Sys2Proof

/-- The operand fields of the request word (R70), as unbounded numbers.
A field a command does not use is 0. -/
structure OperandFields where
  k : Nat := 0
  phi : Nat := 0
  plo : Nat := 0
  sel : Nat := 0
  b : Nat := 0
  w : Nat := 0
  deriving DecidableEq, Repr

/-- Every field fits its port width (R13, R70). -/
def OperandFields.fit (o : OperandFields) : Bool :=
  decide (o.k < 2 ^ 3) && decide (o.phi < 2 ^ 3) && decide (o.plo < 2 ^ 3) &&
    decide (o.sel < 2 ^ 2) && decide (o.b < 2 ^ 8) && decide (o.w < 2 ^ 16)

/-- The operand fields of a command (the "operands used" column of R72). -/
def Instr.operands : Instr → OperandFields
  | .nop => {}
  | .fset k => { k := k.toNat }
  | .fclr k => { k := k.toNat }
  | .fget k => { k := k.toNat }
  | .fput k b => { k := k.toNat, b := b.toNat }
  | .fclrall => {}
  | .fiter => {}
  | .fpar b => { b := b.toNat }
  | .fzero b => { b := b.toNat }
  | .fsign b => { b := b.toNat }
  | .rget k => { k := k.toNat }
  | .rput k b => { k := k.toNat, b := b.toNat }
  | .paddr k => { k := k.toNat }
  | .pget phi plo => { phi := phi.toNat, plo := plo.toNat }
  | .pput phi plo w => { phi := phi.toNat, plo := plo.toNat, w := w.toNat }
  | .ropc b k => { k := k.toNat, b := b.toNat }
  | .psel sel => { sel := sel.toNat }
  | .reserved0A => {}
  | .reserved0B => {}
  | .reserved0C => {}
  | .reserved0D => {}
  | .reserved0E => {}
  | .reserved0F => {}
  | .reserved17 => {}
  | .reserved18 => {}
  | .reserved19 => {}
  | .reserved1A => {}
  | .reserved1B => {}
  | .reserved1C => {}
  | .reserved1D => {}
  | .reserved1E => {}
  | .reserved1F => {}

/-- A command whose operands fit their ports (R13). -/
def Instr.wellFormed (i : Instr) : Bool :=
  i.operands.fit

end Sys2Proof
end

