-- ==== Sys2Proof/Decode.lean ====
section
/-! DEFINITION. Decoding a request word into a command, and encoding a command as its request word
(`spec/30_encoding.md` R70 to R73, R82). -/

namespace Sys2Proof

/-- `op`, bits 4:0 (R70). -/
def fieldOp (w : RequestWord) : BitVec 5 := w.extractLsb' 0 5

/-- `k`, bits 7:5 (R70). -/
def fieldK (w : RequestWord) : Code := w.extractLsb' 5 3

/-- `phi`, bits 10:8 (R70). -/
def fieldPhi (w : RequestWord) : Code := w.extractLsb' 8 3

/-- `plo`, bits 13:11 (R70). -/
def fieldPlo (w : RequestWord) : Code := w.extractLsb' 11 3

/-- `sel`, bits 15:14 (R70). -/
def fieldSel (w : RequestWord) : Selector := w.extractLsb' 14 2

/-- `b`, bits 23:16 (R70). -/
def fieldB (w : RequestWord) : Byte := w.extractLsb' 16 8

/-- `w`, bits 39:24 (R70). -/
def fieldW (w : RequestWord) : Word := w.extractLsb' 24 16

/-- The command a request word selects: "a command is selected by `op` alone" (R71), with the numbers
of R72 and the reserved numbers of R73. Every value of the 5-bit `op` has its own row, so no request
word is left without a command, and the last arm is reached by 0x1F only
(`Laws.decodeRequest_reserved1F`). -/
def decodeRequest (w : RequestWord) : Instr :=
  match (fieldOp w).toNat with
  | 0x00 => .nop
  | 0x01 => .fset (fieldK w)
  | 0x02 => .fclr (fieldK w)
  | 0x03 => .fget (fieldK w)
  | 0x04 => .fput (fieldK w) (fieldB w)
  | 0x05 => .fclrall
  | 0x06 => .fiter
  | 0x07 => .fpar (fieldB w)
  | 0x08 => .fzero (fieldB w)
  | 0x09 => .fsign (fieldB w)
  | 0x0a => .reserved0A
  | 0x0b => .reserved0B
  | 0x0c => .reserved0C
  | 0x0d => .reserved0D
  | 0x0e => .reserved0E
  | 0x0f => .reserved0F
  | 0x10 => .rget (fieldK w)
  | 0x11 => .rput (fieldK w) (fieldB w)
  | 0x12 => .paddr (fieldK w)
  | 0x13 => .pget (fieldPhi w) (fieldPlo w)
  | 0x14 => .pput (fieldPhi w) (fieldPlo w) (fieldW w)
  | 0x15 => .ropc (fieldB w) (fieldK w)
  | 0x16 => .psel (fieldSel w)
  | 0x17 => .reserved17
  | 0x18 => .reserved18
  | 0x19 => .reserved19
  | 0x1a => .reserved1A
  | 0x1b => .reserved1B
  | 0x1c => .reserved1C
  | 0x1d => .reserved1D
  | 0x1e => .reserved1E
  | _ => .reserved1F

/-- The command number of a command (R72, R73). -/
def Instr.opNumber : Instr → Nat
  | .nop => 0x00
  | .fset _ => 0x01
  | .fclr _ => 0x02
  | .fget _ => 0x03
  | .fput _ _ => 0x04
  | .fclrall => 0x05
  | .fiter => 0x06
  | .fpar _ => 0x07
  | .fzero _ => 0x08
  | .fsign _ => 0x09
  | .rget _ => 0x10
  | .rput _ _ => 0x11
  | .paddr _ => 0x12
  | .pget _ _ => 0x13
  | .pput _ _ _ => 0x14
  | .ropc _ _ => 0x15
  | .psel _ => 0x16
  | .reserved0A => 0x0A
  | .reserved0B => 0x0B
  | .reserved0C => 0x0C
  | .reserved0D => 0x0D
  | .reserved0E => 0x0E
  | .reserved0F => 0x0F
  | .reserved17 => 0x17
  | .reserved18 => 0x18
  | .reserved19 => 0x19
  | .reserved1A => 0x1A
  | .reserved1B => 0x1B
  | .reserved1C => 0x1C
  | .reserved1D => 0x1D
  | .reserved1E => 0x1E
  | .reserved1F => 0x1F

/-- The request word with command number `op` and the operand fields `o`, laid out as R70 says:
`w` above `b` above `sel` above `plo` above `phi` above `k` above `op`.
A number wider than its field is reduced to the field's width. -/
def packRequest (op : Nat) (o : OperandFields) : RequestWord :=
  BitVec.ofNat 16 o.w ++ BitVec.ofNat 8 o.b ++ BitVec.ofNat 2 o.sel ++ BitVec.ofNat 3 o.plo ++
    BitVec.ofNat 3 o.phi ++ BitVec.ofNat 3 o.k ++ BitVec.ofNat 5 op

/-- The request word of a command, its unused fields 0 (R70 to R72). -/
def encode (i : Instr) : RequestWord :=
  packRequest i.opNumber i.operands

/-- Why a number is no request. -/
inductive DecodeReject where
  /-- The number needs more than the 40 bits of the command port: "not representable at the ports"
  (R13, R82). Raised by `decodeNumber`; safe. -/
  | widerThanPort
  deriving DecidableEq, Repr

/-- Decoding of any number: a number of at most 40 bits is a request word, a wider one is rejected by
name (R70, R82). -/
def decodeNumber (n : Nat) : Except DecodeReject Instr :=
  if n < 2 ^ 40 then .ok (decodeRequest (BitVec.ofNat 40 n)) else .error .widerThanPort

/-- The low `nbits` bits of `w`: the bits of a request above `nbits` are 0. -/
def tableNumber (nbits w : Nat) : Nat := w % 2 ^ nbits

/-- What the decoder reads from the request whose low `nbits` bits are `w` and whose other bits are 0,
bit 0 being the least significant bit of the request word, as in `spec/opcode_table.json`. -/
def decodeTableWord (nbits w : Nat) : Option Instr :=
  (decodeNumber (tableNumber nbits w)).toOption

end Sys2Proof
end

