-- ==== Sys2Proof/Config.lean ====
section
/-! DEFINITION. What one realisation of the block fixes: the parameter `AC_POS` of
`spec/00_scope.md` R12, and the values the spec leaves open before the first reset
(`spec/10_state.md` R40). -/

namespace Sys2Proof

/-- The two legal values of the parameter `AC_POS` (R12). -/
inductive AcPlacement where
  /-- `AC_POS = 3`, the value this spec takes (R12, 92 D6, 90 C1). -/
  | bit3
  /-- `AC_POS = 4`, the only other legal value. -/
  | bit4
  deriving DecidableEq, Repr

/-- The bit position a placement stands for. -/
def AcPlacement.position : AcPlacement → Nat
  | .bit3 => 3
  | .bit4 => 4

/-- `AC_POS = 3` (R12; `spec/92_eei_decisions.md` D6). Log entry 3. -/
def Config.acPlacement : AcPlacement := .bit3

/-- The flag word before the first reset: "unspecified" (R40). A free value; log entry 4. -/
opaque Config.powerOnFlagWord : Byte

/-- The register cells before the first reset, by register code: "unspecified" (R40).
Free values; log entry 4. -/
opaque Config.powerOnCell : Code → Byte

end Sys2Proof
end

