-- ==== Sys2Proof/Machine/State.lean ====
section
/-! DEFINITION. The state of the block (`spec/10_state.md`), its port signals (`spec/30_encoding.md`
R70, R74), and the outcomes of a step. -/

namespace Sys2Proof.Machine

/-- The seven registers that have a cell (R26). Code 6 (M) has none (R27), so it is no constructor. -/
inductive Reg where
  | b | c | d | e | h | l | a
  deriving DecidableEq, Repr

/-- The seven 8-bit register cells (R26). -/
structure Cells where
  b : Byte
  c : Byte
  d : Byte
  e : Byte
  h : Byte
  l : Byte
  a : Byte
  deriving DecidableEq, Repr

/-- A pair descriptor: the register of the high byte and that of the low byte (R19, R30). -/
structure PairDesc where
  hi : Reg
  lo : Reg
  deriving DecidableEq, Repr

/-- The five addressable flags (R21): CARRY, PARITY, AUX_CARRY, ZERO, SIGN. -/
inductive Flag where
  | cy | p | ac | z | s
  deriving DecidableEq, Repr

/-- The error kinds of `spec/60_exceptions.md` R201 to R207. -/
inductive ErrorKind where
  /-- R201: a named flag command on a key that is no addressable flag. -/
  | invalidFlag
  /-- R202: an indexed flag command on a key that is no addressable flag. -/
  | outOfRangeFlag
  /-- R203: a register code that has no cell. -/
  | invalidRegister
  /-- R204: a code or selector that names no pair. -/
  | invalidPair
  /-- R205: a flag value other than 0 and 1. -/
  | invalidValue
  /-- R206: "defined and never produced"; no command of the model raises it. -/
  | typeMismatch
  /-- R207: a reserved command number. -/
  | illegalCommand
  deriving DecidableEq, Repr

/-- The response of one cycle (R74). "A field that the current command does not drive is 0": that is
each field's default. -/
structure Response where
  r8 : Byte := 0
  r16 : Word := 0
  dhi : Code := 0
  dlo : Code := 0
  fseq : BitVec 5 := 0
  err : Option ErrorKind := none
  deriving DecidableEq, Repr

/-- What the engine puts on the block's inputs in one clock cycle: the reset input (R240) and the
request word (R70). -/
structure PortCycle where
  rst : Bool
  req : RequestWord
  deriving DecidableEq, Repr

/-- A write a command has pending until the closing edge of its cycle (R18): one addressable flag of
`F`, or one register cell. There is no pending write to bit 1, to a reserved bit or to a cell of code 6
(R110, R148). -/
inductive PendingWrite where
  | flag (fl : Flag) (v : Bool)
  | cell (r : Reg) (v : Byte)
  deriving DecidableEq, Repr

/-- The state. `f` and `cells` are the block's whole state (R38: "exactly `F` and the seven cells").
The other two fields are the port, which a closed step function must hold; they are the model's own
(log entries 1 and 2). -/
structure State where
  /-- The flag word `F` (R20). -/
  f : Byte
  /-- The register cells (R26). -/
  cells : Cells
  /-- What the engine presents in the coming cycles, the next one first (log entry 1). -/
  requests : List PortCycle
  /-- The response driven in the cycle that has just ended (log entry 2). -/
  response : Response
  deriving DecidableEq, Repr

/-- The reasons for which the machine stops with a fault: there are none. Every request, the reserved
command numbers included, is answered in its cycle (R181, R200, R250), and an error is a response after
which "the next command runs normally" (R209), not a stop. -/
inductive Fault where
  deriving DecidableEq, Repr

/-- The reasons for which the model gives no meaning. -/
inductive Refusal where
  /-- An instruction without a meaning yet, by its mnemonic. Raised only by an arm of `exec` that
  refuses its instruction, and no arm does; safe. -/
  | notModelled (mnemonic : String)
  deriving DecidableEq, Repr

/-- The block right after a reset edge: `F = 0x02` (R25), every cell 0 (R28), every response field 0
(R242), and nothing presented by the engine yet (log entry 1). -/
def State.reset : State :=
  { f := 0x02
    cells := { b := 0, c := 0, d := 0, e := 0, h := 0, l := 0, a := 0 }
    requests := []
    response := {} }

end Sys2Proof.Machine
end

