-- ==== Sys2Proof/Machine/Flags.lean ====
section
/-! DEFINITION. The flag word `F`: where its flags stand (`spec/10_state.md` R20 to R23), which keys
name them (`spec/40_condition_flags.md` R100), and the parity, zero and sign tests (R107 to R109).
What depends on `AC_POS` takes the placement as an argument, since R12 admits 3 and 4. -/

namespace Sys2Proof.Machine

/-- The placement of AC this model runs with (R12; log entry 3). -/
def acPlacement : AcPlacement := Config.acPlacement

/-- The bit of `F` a flag occupies, under a placement of AC (R20, R21). -/
def Flag.bitAt (ac : AcPlacement) : Flag → Nat
  | .cy => 0
  | .p => 2
  | .ac => ac.position
  | .z => 6
  | .s => 7

/-- The bit of `F` a flag occupies. -/
def Flag.bit (fl : Flag) : Nat := fl.bitAt acPlacement

/-- The addressable flags in the order of the iteration, "CARRY, PARITY, AUX_CARRY, ZERO, SIGN" (R106). -/
def Flag.all : List Flag := [.cy, .p, .ac, .z, .s]

/-- The flag a key names: the one whose bit position it is, if any (R21, R79). `isFlagKey` of R100 is
that there is one. -/
def flagOfKeyAt? (ac : AcPlacement) (k : Code) : Option Flag :=
  Flag.all.find? (fun fl => fl.bitAt ac == k.toNat)

/-- The flag a key names. -/
def flagOfKey? (k : Code) : Option Flag := flagOfKeyAt? acPlacement k

/-- The reserved bits of `F`: bits 4 and 5, and bits 3 and 5 when AC is placed at bit 4 (R20, R23). -/
def reservedBitsAt : AcPlacement → List Nat
  | .bit3 => [4, 5]
  | .bit4 => [3, 5]

/-- The reserved bits of `F`. -/
def reservedBits : List Nat := reservedBitsAt acPlacement

/-- `F[n]`. -/
def readBit (f : Byte) (n : Nat) : Bool := f.getLsbD n

/-- `F` with bit `n` set to `v` and every other bit as it was. -/
def writeBit (f : Byte) (n : Nat) (v : Bool) : Byte :=
  if v then f ||| (1#8 <<< n) else f &&& ~~~(1#8 <<< n)

/-- A flag of the flag word. -/
def readFlag (f : Byte) (fl : Flag) : Bool := readBit f fl.bit

/-- The flag word with one flag written. -/
def writeFlag (f : Byte) (fl : Flag) (v : Bool) : Byte := writeBit f fl.bit v

/-- The sequence FITER reads: element `i` is the `i`-th flag of `Flag.all`, so AC stands at bit 2
whatever its placement (R106). -/
def flagSequenceAt (ac : AcPlacement) (f : Byte) : BitVec 5 :=
  BitVec.ofBool (readBit f (Flag.s.bitAt ac)) ++ BitVec.ofBool (readBit f (Flag.z.bitAt ac)) ++
    BitVec.ofBool (readBit f (Flag.ac.bitAt ac)) ++ BitVec.ofBool (readBit f (Flag.p.bitAt ac)) ++
    BitVec.ofBool (readBit f (Flag.cy.bitAt ac))

/-- The sequence FITER reads. -/
def flagSequence (f : Byte) : BitVec 5 := flagSequenceAt acPlacement f

/-- The number of 1 bits of a byte (R16). -/
def popcount (b : Byte) : Nat :=
  (List.range 8).foldl (fun count n => count + (b.getLsbD n).toNat) 0

/-- P as FPAR computes it: 1 iff the number of 1 bits is even (R107). -/
def parityFlag (b : Byte) : Bool := popcount b % 2 == 0

/-- Z as FZERO computes it (R108). -/
def zeroFlag (b : Byte) : Bool := b == 0#8

/-- The negativity predicate `NEG(b) = b[7]` (R14). -/
def neg (b : Byte) : Bool := b.getLsbD 7

end Sys2Proof.Machine
end

