-- ==== Sys2Proof/Machine/Operands.lean ====
section
/-! DEFINITION. The codes carried in the operand fields: register codes, pair descriptors, address-pair
codes, pair-select fields, and the opcode-field extraction (`spec/30_encoding.md` R76 to R80;
`spec/41_register_file.md` R140, R146). -/

namespace Sys2Proof.Machine

/-- The register a 3-bit code names, if it has a cell: `isStorageCode` and the mapping of R76.
Code 6 (M) has no cell (R27, R140). -/
def storageReg? (k : Code) : Option Reg :=
  match k.toNat with
  | 0 => some .b
  | 1 => some .c
  | 2 => some .d
  | 3 => some .e
  | 4 => some .h
  | 5 => some .l
  | 7 => some .a
  | _ => none

/-- The register code of a register (R26, R76). -/
def Reg.code : Reg → Code
  | .b => 0
  | .c => 1
  | .d => 2
  | .e => 3
  | .h => 4
  | .l => 5
  | .a => 7

/-- The pair (B,C) (R30). -/
def pairBC : PairDesc := { hi := .b, lo := .c }

/-- The pair (D,E) (R30). -/
def pairDE : PairDesc := { hi := .d, lo := .e }

/-- The pair (H,L) (R30). -/
def pairHL : PairDesc := { hi := .h, lo := .l }

/-- The pair an address-pair code names by its high register: `pairOfAddrCode` (R33, R78, R140). -/
def pairOfAddrCode? (k : Code) : Option PairDesc :=
  match k.toNat with
  | 0 => some pairBC
  | 2 => some pairDE
  | 4 => some pairHL
  | _ => none

/-- The pair a pair-select field names: `pairOfSel` (R34, R77, R140). -/
def pairOfSel? (sel : Selector) : Option PairDesc :=
  match sel.toNat with
  | 0 => some pairBC
  | 1 => some pairDE
  | 2 => some pairHL
  | _ => none

/-- The descriptor an explicit pair of codes gives: any two storage codes (R144, R145; 92 D11). -/
def pairOfCodes? (phi plo : Code) : Option PairDesc :=
  match storageReg? phi, storageReg? plo with
  | some hi, some lo => some { hi, lo }
  | _, _ => none

/-- The register field of an opcode byte, `(zext_16(b) >> k) & 0b111` (R80, R146). -/
def opcodeField (b : Byte) (k : Code) : Byte :=
  ((b.setWidth 16 >>> k.toNat) &&& 0b111#16).setWidth 8

end Sys2Proof.Machine
end

