-- ==== Sys2Proof/Machine/Ops.lean ====
section
/-! DEFINITION. The operations every command is made of: reading cells and pairs, the pending writes
committed at the closing edge (`spec/00_scope.md` R18), ending a command, raising an error
(`spec/60_exceptions.md` R208), the reset edge (`spec/70_reset_and_hazards.md` R240 to R242), the port,
and the layout of the response word (`spec/30_encoding.md` R74, R75). -/

namespace Sys2Proof.Machine

/-- `R[r]` (R17). -/
def Cells.read (c : Cells) : Reg → Byte
  | .b => c.b
  | .c => c.c
  | .d => c.d
  | .e => c.e
  | .h => c.h
  | .l => c.l
  | .a => c.a

/-- The cells with `R[r]` written. -/
def Cells.write (c : Cells) (r : Reg) (v : Byte) : Cells :=
  match r with
  | .b => { c with b := v }
  | .c => { c with c := v }
  | .d => { c with d := v }
  | .e => { c with e := v }
  | .h => { c with h := v }
  | .l => { c with l := v }
  | .a => { c with a := v }

/-- The 16-bit value of a pair, `(zext_16(R[hi]) << 8) | zext_16(R[lo])` (R31). -/
def Cells.pair (c : Cells) (p : PairDesc) : Word :=
  ((c.read p.hi).setWidth 16 <<< 8) ||| (c.read p.lo).setWidth 16

/-- The two pending writes of a pair write, in the order R145 lists them: `R[hi] <- w[15:8]`, then
`R[lo] <- w[7:0]` (R32). -/
def pairWrites (p : PairDesc) (w : Word) : List PendingWrite :=
  [.cell p.hi (w.extractLsb' 8 8), .cell p.lo (w.extractLsb' 0 8)]

/-- One pending write, committed. -/
def State.apply (s : State) : PendingWrite → State
  | .flag fl v => { s with f := writeFlag s.f fl v }
  | .cell r v => { s with cells := s.cells.write r v }

/-- The pending writes of a command committed at the closing edge, in the order of the pseudocode: of
two writes to one bit or cell "the later one in the pseudocode is committed" (R18). -/
def State.commit (s : State) (ws : List PendingWrite) : State :=
  ws.foldl State.apply s

/-- A command that succeeds: its pending writes are committed and `r` was its response. -/
def finish (ws : List PendingWrite) (r : Response) (s : State) : Host.Outcome State Fault Refusal :=
  .next { s.commit ws with response := r }

/-- `raise <Kind>`: the command changes no state, and the response has the kind on `err` and 0 in every
other field (R208, R210). -/
def raise (e : ErrorKind) (s : State) : Host.Outcome State Fault Refusal :=
  .next { s with response := { err := some e } }

/-- A rising edge with `rst = 1`: `F` and every cell take their reset values (R240), the request is
ignored (R241), and every response field is 0 (R242). -/
def State.resetEdge (s : State) : State :=
  { s with f := State.reset.f, cells := State.reset.cells, response := {} }

/-- The idle cycle: no reset, and the NOP request (R180: "the engine presents NOP on every cycle in
which it issues no operation"). -/
def PortCycle.idle : PortCycle := { rst := false, req := 0x0000000000 }

/-- What is on the block's inputs in this cycle: the next entry of the list, idle when there is none. -/
def State.presented (s : State) : PortCycle := s.requests.head?.getD PortCycle.idle

/-- The state with this cycle's inputs taken off the list. -/
def State.takePresented (s : State) : State := { s with requests := s.requests.tail }

/-- The state with `c` on the block's inputs in this cycle, in place of what the engine would present. -/
def State.present (s : State) (c : PortCycle) : State := { s with requests := c :: s.requests.tail }

/-- The code of an error kind on `err` (R75). -/
def ErrorKind.code : ErrorKind → BitVec 3
  | .invalidFlag => 1
  | .outOfRangeFlag => 2
  | .invalidRegister => 3
  | .invalidPair => 4
  | .invalidValue => 5
  | .typeMismatch => 6
  | .illegalCommand => 7

/-- The `err` field: 0 when the command succeeded (R75). -/
def errField : Option ErrorKind → BitVec 3
  | none => 0
  | some e => e.code

/-- The response word: bits 39:38 zero, then `err`, `fseq`, `dlo`, `dhi`, `r16` and `r8` downwards
(R74). -/
def Response.word (r : Response) : ResponseWord :=
  0#2 ++ errField r.err ++ r.fseq ++ r.dlo ++ r.dhi ++ r.r16 ++ r.r8

end Sys2Proof.Machine
end

