-- ==== Sys2Proof/Machine/CommandControl.lean ====
section
/-! DEFINITION. The idle command and the reserved command numbers (`spec/42_command_control.md`). -/

namespace Sys2Proof.Machine

/-- NOP, the idle cycle: nothing is read or written, every response field is 0 (R180). -/
def execNop (s : State) : Host.Outcome State Fault Refusal :=
  finish [] {} s

/-- Reserved command number 0x0A: IllegalCommand, always (R73, R181). -/
def execReserved0A (s : State) : Host.Outcome State Fault Refusal :=
  raise .illegalCommand s

/-- Reserved command number 0x0B: IllegalCommand, always (R73, R181). -/
def execReserved0B (s : State) : Host.Outcome State Fault Refusal :=
  raise .illegalCommand s

/-- Reserved command number 0x0C: IllegalCommand, always (R73, R181). -/
def execReserved0C (s : State) : Host.Outcome State Fault Refusal :=
  raise .illegalCommand s

/-- Reserved command number 0x0D: IllegalCommand, always (R73, R181). -/
def execReserved0D (s : State) : Host.Outcome State Fault Refusal :=
  raise .illegalCommand s

/-- Reserved command number 0x0E: IllegalCommand, always (R73, R181). -/
def execReserved0E (s : State) : Host.Outcome State Fault Refusal :=
  raise .illegalCommand s

/-- Reserved command number 0x0F: IllegalCommand, always (R73, R181). -/
def execReserved0F (s : State) : Host.Outcome State Fault Refusal :=
  raise .illegalCommand s

/-- Reserved command number 0x17: IllegalCommand, always (R73, R181). -/
def execReserved17 (s : State) : Host.Outcome State Fault Refusal :=
  raise .illegalCommand s

/-- Reserved command number 0x18: IllegalCommand, always (R73, R181). -/
def execReserved18 (s : State) : Host.Outcome State Fault Refusal :=
  raise .illegalCommand s

/-- Reserved command number 0x19: IllegalCommand, always (R73, R181). -/
def execReserved19 (s : State) : Host.Outcome State Fault Refusal :=
  raise .illegalCommand s

/-- Reserved command number 0x1A: IllegalCommand, always (R73, R181). -/
def execReserved1A (s : State) : Host.Outcome State Fault Refusal :=
  raise .illegalCommand s

/-- Reserved command number 0x1B: IllegalCommand, always (R73, R181). -/
def execReserved1B (s : State) : Host.Outcome State Fault Refusal :=
  raise .illegalCommand s

/-- Reserved command number 0x1C: IllegalCommand, always (R73, R181). -/
def execReserved1C (s : State) : Host.Outcome State Fault Refusal :=
  raise .illegalCommand s

/-- Reserved command number 0x1D: IllegalCommand, always (R73, R181). -/
def execReserved1D (s : State) : Host.Outcome State Fault Refusal :=
  raise .illegalCommand s

/-- Reserved command number 0x1E: IllegalCommand, always (R73, R181). -/
def execReserved1E (s : State) : Host.Outcome State Fault Refusal :=
  raise .illegalCommand s

/-- Reserved command number 0x1F: IllegalCommand, always (R73, R181). -/
def execReserved1F (s : State) : Host.Outcome State Fault Refusal :=
  raise .illegalCommand s

end Sys2Proof.Machine
end

