-- ==== Sys2Proof/Machine/ConditionFlags.lean ====
section
/-! DEFINITION. The condition_flags_register commands (`spec/40_condition_flags.md`). -/

namespace Sys2Proof.Machine

/-- FSET: `if isFlagKey(k) == 0 then raise InvalidFlag; F[k] <- 1` (R101). -/
def execFset (k : Code) (s : State) : Host.Outcome State Fault Refusal :=
  match flagOfKey? k with
  | none => raise .invalidFlag s
  | some fl => finish [.flag fl true] {} s

/-- FCLR: `if isFlagKey(k) == 0 then raise InvalidFlag; F[k] <- 0` (R102). -/
def execFclr (k : Code) (s : State) : Host.Outcome State Fault Refusal :=
  match flagOfKey? k with
  | none => raise .invalidFlag s
  | some fl => finish [.flag fl false] {} s

/-- FGET: `if isFlagKey(k) == 0 then raise OutOfRangeFlag; out.r8 <- zext_8(F[k])` (R103). -/
def execFget (k : Code) (s : State) : Host.Outcome State Fault Refusal :=
  match flagOfKey? k with
  | none => raise .outOfRangeFlag s
  | some fl => finish [] { r8 := (BitVec.ofBool (readFlag s.f fl)).setWidth 8 } s

/-- FPUT: `if isFlagKey(k) == 0 then raise OutOfRangeFlag; if b > 1 then raise InvalidValue;
F[k] <- b[0]` (R104): the key is checked before the value (R211). -/
def execFput (k : Code) (b : Byte) (s : State) : Host.Outcome State Fault Refusal :=
  match flagOfKey? k with
  | none => raise .outOfRangeFlag s
  | some fl => if 1 < b.toNat then raise .invalidValue s else finish [.flag fl (b.getLsbD 0)] {} s

/-- FCLRALL: the five addressable flags cleared, bit 1 and the reserved bits not written (R105). -/
def execFclrall (s : State) : Host.Outcome State Fault Refusal :=
  finish (Flag.all.map (.flag · false)) {} s

/-- FITER: `out.fseq <- {F[7], F[6], F[AC_POS], F[2], F[0]}` (R106). -/
def execFiter (s : State) : Host.Outcome State Fault Refusal :=
  finish [] { fseq := flagSequence s.f } s

/-- FPAR: `F[2] <- ((popcount(b) mod 2) == 0)` (R107). -/
def execFpar (b : Byte) (s : State) : Host.Outcome State Fault Refusal :=
  finish [.flag .p (parityFlag b)] {} s

/-- FZERO: `F[6] <- (b == 0)` (R108). -/
def execFzero (b : Byte) (s : State) : Host.Outcome State Fault Refusal :=
  finish [.flag .z (zeroFlag b)] {} s

/-- FSIGN: `F[7] <- 0; F[7] <- NEG(b)`, of which "only the last is committed" (R109). -/
def execFsign (b : Byte) (s : State) : Host.Outcome State Fault Refusal :=
  finish [.flag .s false, .flag .s (neg b)] {} s

end Sys2Proof.Machine
end

