-- ==== Sys2Proof/Machine/RegisterFile.lean ====
section
/-! DEFINITION. The register_file commands (`spec/41_register_file.md`). -/

namespace Sys2Proof.Machine

/-- RGET: `if isStorageCode(k) == 0 then raise InvalidRegister; out.r8 <- R[k]` (R141). -/
def execRget (k : Code) (s : State) : Host.Outcome State Fault Refusal :=
  match storageReg? k with
  | none => raise .invalidRegister s
  | some r => finish [] { r8 := s.cells.read r } s

/-- RPUT: `if isStorageCode(k) == 0 then raise InvalidRegister; R[k] <- b` (R142). -/
def execRput (k : Code) (b : Byte) (s : State) : Host.Outcome State Fault Refusal :=
  match storageReg? k with
  | none => raise .invalidRegister s
  | some r => finish [.cell r b] {} s

/-- PADDR: InvalidPair unless `k ∈ {0, 2, 4}`; then `out.r16` is the value of the pair named by its high
register (R143). -/
def execPaddr (k : Code) (s : State) : Host.Outcome State Fault Refusal :=
  match pairOfAddrCode? k with
  | none => raise .invalidPair s
  | some p => finish [] { r16 := s.cells.pair p } s

/-- PGET: InvalidRegister if either code has no cell; then `out.r16` is the value of the descriptor
(R144). -/
def execPget (phi plo : Code) (s : State) : Host.Outcome State Fault Refusal :=
  match pairOfCodes? phi plo with
  | none => raise .invalidRegister s
  | some p => finish [] { r16 := s.cells.pair p } s

/-- PPUT: InvalidRegister if either code has no cell, with no partial write; then
`R[phi] <- w[15:8]; R[plo] <- w[7:0]` (R145). -/
def execPput (phi plo : Code) (w : Word) (s : State) : Host.Outcome State Fault Refusal :=
  match pairOfCodes? phi plo with
  | none => raise .invalidRegister s
  | some p => finish (pairWrites p w) {} s

/-- ROPC: `out.r8 <- zext_8((zext_16(b) >> k) & 0b111)`, with no validation (R146). -/
def execRopc (b : Byte) (k : Code) (s : State) : Host.Outcome State Fault Refusal :=
  finish [] { r8 := opcodeField b k } s

/-- PSEL: `if sel == 3 then raise InvalidPair`; then the two codes of the descriptor (R147). -/
def execPsel (sel : Selector) (s : State) : Host.Outcome State Fault Refusal :=
  match pairOfSel? sel with
  | none => raise .invalidPair s
  | some p => finish [] { dhi := p.hi.code, dlo := p.lo.code } s

end Sys2Proof.Machine
end

