-- ==== Sys2Proof/Machine/Dispatch.lean ====
section
/-! DEFINITION. The dispatch of the commands: one arm per constructor of `Instr`. -/

namespace Sys2Proof.Machine

/-- The command `i` run in the state `s`: one clock cycle (R18, R250). -/
def exec (i : Instr) (s : State) : Host.Outcome State Fault Refusal :=
  match i with
  | .nop => Sys2Proof.Machine.execNop s
  | .fset k => Sys2Proof.Machine.execFset k s
  | .fclr k => Sys2Proof.Machine.execFclr k s
  | .fget k => Sys2Proof.Machine.execFget k s
  | .fput k b => Sys2Proof.Machine.execFput k b s
  | .fclrall => Sys2Proof.Machine.execFclrall s
  | .fiter => Sys2Proof.Machine.execFiter s
  | .fpar b => Sys2Proof.Machine.execFpar b s
  | .fzero b => Sys2Proof.Machine.execFzero b s
  | .fsign b => Sys2Proof.Machine.execFsign b s
  | .rget k => Sys2Proof.Machine.execRget k s
  | .rput k b => Sys2Proof.Machine.execRput k b s
  | .paddr k => Sys2Proof.Machine.execPaddr k s
  | .pget phi plo => Sys2Proof.Machine.execPget phi plo s
  | .pput phi plo w => Sys2Proof.Machine.execPput phi plo w s
  | .ropc b k => Sys2Proof.Machine.execRopc b k s
  | .psel sel => Sys2Proof.Machine.execPsel sel s
  | .reserved0A => Sys2Proof.Machine.execReserved0A s
  | .reserved0B => Sys2Proof.Machine.execReserved0B s
  | .reserved0C => Sys2Proof.Machine.execReserved0C s
  | .reserved0D => Sys2Proof.Machine.execReserved0D s
  | .reserved0E => Sys2Proof.Machine.execReserved0E s
  | .reserved0F => Sys2Proof.Machine.execReserved0F s
  | .reserved17 => Sys2Proof.Machine.execReserved17 s
  | .reserved18 => Sys2Proof.Machine.execReserved18 s
  | .reserved19 => Sys2Proof.Machine.execReserved19 s
  | .reserved1A => Sys2Proof.Machine.execReserved1A s
  | .reserved1B => Sys2Proof.Machine.execReserved1B s
  | .reserved1C => Sys2Proof.Machine.execReserved1C s
  | .reserved1D => Sys2Proof.Machine.execReserved1D s
  | .reserved1E => Sys2Proof.Machine.execReserved1E s
  | .reserved1F => Sys2Proof.Machine.execReserved1F s

end Sys2Proof.Machine
end

