-- ==== Sys2Proof/Machine/Step.lean ====
section
/-! DEFINITION. One clock cycle of the block (`spec/70_reset_and_hazards.md` R240 to R254). -/

namespace Sys2Proof.Machine

/-- One clock cycle: with `rst = 1` the reset edge, whatever the request (R241), else the command the
request word selects (R250). The rules hold only after the first reset edge (R243); that a cycle with
`rst = 0` before it, too, runs its command by them is this model's choice (DESIGN CHOICE, log entry 11). -/
def step (s : State) : Host.Outcome State Fault Refusal :=
  if s.presented.rst then .next s.takePresented.resetEdge
  else exec (decodeRequest s.presented.req) s.takePresented

/-- The request whose low `nbits` bits are `w`, its other bits 0, on the block's inputs in this cycle
with `rst = 0` (log entry 1: the engine presents the commands from outside). -/
def State.withFetchWord (s : State) (nbits w : Nat) : State :=
  s.present { rst := false, req := BitVec.ofNat 40 (tableNumber nbits w) }

end Sys2Proof.Machine
end

