-- ==== Sys2Proof/Machine/Assembler.lean ====
section
/-! DEFINITION. The assembler syntax of the commands (`spec/30_encoding.md` R83) and the source's
operation names as aliases of the mnemonics (R84). A line that has none of the forms of R83 is refused.
Braces are written by their character codes, 123 and 125. -/

namespace Sys2Proof.Machine.Assembler

/-- The lexical pieces of a line. -/
inductive Token where
  | text (cs : List Char)
  | comma
  | openBrace
  | closeBrace
  deriving DecidableEq, Repr

/-- An operand as written: one name or number, or a descriptor of two register codes. -/
inductive Operand where
  | plain (cs : List Char)
  | descriptor (x y : List Char)
  deriving DecidableEq, Repr

/-- The pending text (held in reverse) as a token, if there is any. -/
def flush (rev : List Char) (ts : List Token) : List Token :=
  if rev.isEmpty then ts else .text rev.reverse :: ts

/-- The tokens of a line: blanks separate, and commas and braces stand for themselves.
`rev` is the text read since the last separator, in reverse. -/
def tokens (rev : List Char) : List Char → List Token
  | [] => flush rev []
  | c :: cs =>
    if c = ' ' then flush rev (tokens [] cs)
    else if c = ',' then flush rev (.comma :: tokens [] cs)
    else if c.toNat = 123 then flush rev (.openBrace :: tokens [] cs)
    else if c.toNat = 125 then flush rev (.closeBrace :: tokens [] cs)
    else tokens (c :: rev) cs

/-- "operands, separated by commas" (R83). -/
def operandList : List Token → Option (List Operand)
  | [.text a] => some [.plain a]
  | [.openBrace, .text x, .comma, .text y, .closeBrace] => some [.descriptor x y]
  | .text a :: .comma :: ts => (operandList ts).map (.plain a :: ·)
  | .openBrace :: .text x :: .comma :: .text y :: .closeBrace :: .comma :: ts =>
    (operandList ts).map (.descriptor x y :: ·)
  | _ => none

/-- The value of a digit in a base, if it is one. -/
def digit? (base : Nat) (c : Char) : Option Nat :=
  let n := c.toNat
  let v := if 48 ≤ n ∧ n ≤ 57 then n - 48
    else if 65 ≤ n ∧ n ≤ 70 then n - 55
    else if 97 ≤ n ∧ n ≤ 102 then n - 87
    else base
  if v < base then some v else none

/-- The number the digits write in a base, most significant first; an underscore "is only a digit
separator" (R16). -/
def digits? (base acc : Nat) : List Char → Option Nat
  | [] => some acc
  | c :: cs =>
    if c = '_' then digits? base acc cs
    else (digit? base c).bind (fun v => digits? base (acc * base + v) cs)

/-- A number, "with the `0x` and `0b` forms allowed", as R83 says of byte and word operands. R83 says
only "a number" of flag keys, register codes, selectors and offsets; that these take the same forms is this
model's choice (DESIGN CHOICE, log entry 10). It has a digit first. -/
def number? : List Char → Option Nat
  | '0' :: 'x' :: c :: cs => (digit? 16 c).bind (fun v => digits? 16 v cs)
  | '0' :: 'b' :: c :: cs => (digit? 2 c).bind (fun v => digits? 2 v cs)
  | c :: cs => (digit? 10 c).bind (fun v => digits? 10 v cs)
  | [] => none

/-- A number that fits a field of `n` bits; a wider one cannot be presented (R13). For a code, selector or
offset, too, it may have the `0x` and `0b` forms (DESIGN CHOICE, log entry 10). -/
def field? (n : Nat) : Operand → Option (BitVec n)
  | .plain cs => (number? cs).bind (fun v => if v < 2 ^ n then some (BitVec.ofNat n v) else none)
  | .descriptor _ _ => none

/-- A word operand: a number, "reduced mod 2^16" when it is wider (R32, 93 row 10). -/
def word? : Operand → Option Word
  | .plain cs => (number? cs).map (BitVec.ofNat 16)
  | .descriptor _ _ => none

/-- The value of a name in a table of names. -/
def lookup? {α : Type} (names : List (String × α)) (cs : List Char) : Option α :=
  (names.find? (fun n => n.1.toList == cs)).map (·.2)

/-- The flag names, each the key of its flag (R83). -/
def flagNames : List (String × Code) :=
  [("CY", 0), ("P", 2), ("AC", BitVec.ofNat 3 Flag.ac.bit), ("Z", 6), ("S", 7)]

/-- The register names (R76, R83). -/
def registerNames : List (String × Code) :=
  [("B", 0), ("C", 1), ("D", 2), ("E", 3), ("H", 4), ("L", 5), ("M", 6), ("A", 7)]

/-- The pair names, each as its two register codes (R30, R83). -/
def pairNames : List (String × Code × Code) :=
  [("BC", pairBC.hi.code, pairBC.lo.code), ("DE", pairDE.hi.code, pairDE.lo.code),
    ("HL", pairHL.hi.code, pairHL.lo.code)]

/-- A 3-bit code operand: a name of the table, or a number 0 to 7 (R83), which may have the `0x` and `0b`
forms (DESIGN CHOICE, log entry 10). -/
def code? (names : List (String × Code)) : Operand → Option Code
  | .plain cs => (lookup? names cs).orElse (fun _ => field? 3 (.plain cs))
  | .descriptor _ _ => none

/-- A pair descriptor operand: a pair name, or two register codes in braces (R83). -/
def pair? : Operand → Option (Code × Code)
  | .plain cs => lookup? pairNames cs
  | .descriptor x y =>
    (code? registerNames (.plain x)).bind
      (fun hi => (code? registerNames (.plain y)).map (fun lo => (hi, lo)))

/-- The mnemonics of R72 and the source's operation names of R84, with their command numbers.
The source's indexed register read and write "have no names". -/
def mnemonics : List (String × Nat) :=
  [("NOP", 0x00), ("FSET", 0x01), ("FCLR", 0x02), ("FGET", 0x03), ("FPUT", 0x04), ("FCLRALL", 0x05),
    ("FITER", 0x06), ("FPAR", 0x07), ("FZERO", 0x08), ("FSIGN", 0x09), ("RGET", 0x10), ("RPUT", 0x11),
    ("PADDR", 0x12), ("PGET", 0x13), ("PPUT", 0x14), ("ROPC", 0x15), ("PSEL", 0x16)] ++
  [("set", 0x01), ("clear", 0x02), ("get", 0x03), ("set_value", 0x04), ("clear_all", 0x05),
    ("iter", 0x06), ("calculate_parity", 0x07), ("set_zero", 0x08), ("set_sign", 0x09),
    ("address_from_pair", 0x12), ("value_from_pair", 0x13), ("set_value_for_pair", 0x14),
    ("register_from_opcode", 0x15), ("pair_from_encoding", 0x16)]

/-- A command number with its operands as written: the forms of R83. -/
def command? (op : Nat) (ops : List Operand) : Option Instr :=
  match op, ops with
  | 0x00, [] => some .nop
  | 0x01, [k] => (code? flagNames k).map .fset
  | 0x02, [k] => (code? flagNames k).map .fclr
  | 0x03, [k] => (code? flagNames k).map .fget
  | 0x04, [k, b] => (code? flagNames k).bind (fun k => (field? 8 b).map (.fput k))
  | 0x05, [] => some .fclrall
  | 0x06, [] => some .fiter
  | 0x07, [b] => (field? 8 b).map .fpar
  | 0x08, [b] => (field? 8 b).map .fzero
  | 0x09, [b] => (field? 8 b).map .fsign
  | 0x10, [k] => (code? registerNames k).map .rget
  | 0x11, [k, b] => (code? registerNames k).bind (fun k => (field? 8 b).map (.rput k))
  | 0x12, [k] => (code? registerNames k).map .paddr
  | 0x13, [p] => (pair? p).map (fun d => .pget d.1 d.2)
  | 0x14, [p, w] => (pair? p).bind (fun d => (word? w).map (.pput d.1 d.2))
  | 0x15, [b, k] => (field? 8 b).bind (fun b => (field? 3 k).map (.ropc b))
  | 0x16, [sel] => (field? 2 sel).map .psel
  | _, _ => none

/-- The command a line of text writes: "A mnemonic from rule R72 is followed by its operands" (R83). -/
def assemble (line : String) : Option Instr :=
  match tokens [] line.toList with
  | [.text m] => (lookup? mnemonics m).bind (fun op => command? op [])
  | .text m :: ts =>
    (lookup? mnemonics m).bind (fun op => (operandList ts).bind (fun ops => command? op ops))
  | _ => none

end Sys2Proof.Machine.Assembler
end

