-- ==== Sys2Proof/Machine/Boot.lean ====
section
/-! DEFINITION. The block before its first reset, and the boot requirement
(`spec/10_state.md` R40; `spec/70_reset_and_hazards.md` R243). -/

namespace Sys2Proof.Machine

/-- The block before its first reset edge: "unspecified" (R40), so its flag word and cells are free
values of which nothing is known (log entry 4). `requests` is what the engine will present.
The spec gives no response before the first cycle either; that the recorded response is 0 in every field is
this model's choice (DESIGN CHOICE, log entry 4), and nothing reads it (log entry 2). A cycle with `rst = 0` from this state runs its command as in any other
state (DESIGN CHOICE, log entry 11). -/
def State.powerOn (requests : List PortCycle) : State :=
  { f := Config.powerOnFlagWord
    cells :=
      { b := Config.powerOnCell Reg.b.code
        c := Config.powerOnCell Reg.c.code
        d := Config.powerOnCell Reg.d.code
        e := Config.powerOnCell Reg.e.code
        h := Config.powerOnCell Reg.h.code
        l := Config.powerOnCell Reg.l.code
        a := Config.powerOnCell Reg.a.code }
    requests := requests
    response := {} }

/-- A cycle in which the engine holds `rst` high; the request word is of no account (R241). -/
def PortCycle.holdReset (req : RequestWord) : PortCycle := { rst := true, req := req }

end Sys2Proof.Machine
end

