-- ==== Sys2Proof/Safety.lean ====
section
/-! DEFINITION. What every state of a safe run satisfies, in the terms the claims use. -/

namespace Sys2Proof.Machine

/-- The parts of `F` no command writes hold what the spec fixes: bit 1 is 1 (`spec/10_state.md` R22) and
every reserved bit is 0 (R23). -/
def flagWordOk (f : Byte) : Bool :=
  readBit f 1 && reservedBits.all (fun n => !readBit f n)

/-- The shape of a response: when it carries an error every other field is 0 (`spec/30_encoding.md` R74),
and the error is never TypeMismatch (`spec/60_exceptions.md` R206). -/
def Response.ok (r : Response) : Bool :=
  match r.err with
  | none => true
  | some e => decide (r = { err := some e }) && !decide (e = .typeMismatch)

/-- The invariant of the block: its flag word and its last response are as the spec fixes them. -/
def State.inv (s : State) : Bool :=
  flagWordOk s.f && s.response.ok

end Sys2Proof.Machine
end

