-- ==== Sys2Proof/Certificates/Slice0/Obligations.lean ====
section
/-! DEFINITION. The statements about the model, for the provers. Each says which rule of `spec/` it
formalises. The vocabulary they share is written from the spec's tables, not from the model. -/

open Sys2Proof Sys2Proof.Machine

/-- The keys of the addressable flags, with `AC_POS = 3` (R79, R100). -/
def Sys2Proof.Claims.flagKeys : List Code := [0, 2, 3, 6, 7]

/-- The keys that name no addressable flag, with `AC_POS = 3` (R79, R100). -/
def Sys2Proof.Claims.otherKeys : List Code := [1, 4, 5]

/-- The cells by their codes: B=0, C=1, D=2, E=3, H=4, L=5, A=7 (R26, R76). -/
def Sys2Proof.Claims.cellsByCode (c : Cells) : List (Code × Byte) :=
  [(0, c.b), (1, c.c), (2, c.d), (3, c.e), (4, c.h), (5, c.l), (7, c.a)]

/-- The response that carries an error: every other field is 0 (R208). -/
def Sys2Proof.Claims.errorAnswer (e : ErrorKind) : Response :=
  { r8 := 0, r16 := 0, dhi := 0, dlo := 0, fseq := 0, err := some e }

/-- The bits of a request word that its command uses: `op`, and the fields of the "operands used" column
of R72 at their places in R70. -/
def Sys2Proof.Claims.usedBits (op : BitVec 5) : RequestWord :=
  if op = 0x01 ∨ op = 0x02 ∨ op = 0x03 then 0x00000000FF
  else if op = 0x04 then 0x0000FF00FF
  else if op = 0x07 ∨ op = 0x08 ∨ op = 0x09 then 0x0000FF001F
  else if op = 0x10 ∨ op = 0x12 then 0x00000000FF
  else if op = 0x11 ∨ op = 0x15 then 0x0000FF00FF
  else if op = 0x13 then 0x0000003F1F
  else if op = 0x14 then 0xFFFF003F1F
  else if op = 0x16 then 0x000000C01F
  else 0x000000001F

/-- The error the rules give for a command's operands (R201 to R205, R207), the key of FPUT before its
value (R211). -/
def Sys2Proof.Claims.errorOf : Instr → Option ErrorKind
  | .nop | .fclrall | .fiter | .fpar _ | .fzero _ | .fsign _ | .ropc _ _ => none
  | .fset k => if k ∈ Claims.flagKeys then none else some .invalidFlag
  | .fclr k => if k ∈ Claims.flagKeys then none else some .invalidFlag
  | .fget k => if k ∈ Claims.flagKeys then none else some .outOfRangeFlag
  | .fput k b =>
    if k ∉ Claims.flagKeys then some .outOfRangeFlag
    else if b.toNat ≤ 1 then none else some .invalidValue
  | .rget k => if k = 6 then some .invalidRegister else none
  | .rput k _ => if k = 6 then some .invalidRegister else none
  | .pget phi plo => if phi = 6 ∨ plo = 6 then some .invalidRegister else none
  | .pput phi plo _ => if phi = 6 ∨ plo = 6 then some .invalidRegister else none
  | .paddr k => if k = 0 ∨ k = 2 ∨ k = 4 then none else some .invalidPair
  | .psel sel => if sel = 3 then some .invalidPair else none
  | .reserved0A | .reserved0B | .reserved0C | .reserved0D | .reserved0E | .reserved0F
  | .reserved17 | .reserved18 | .reserved19 | .reserved1A | .reserved1B | .reserved1C
  | .reserved1D | .reserved1E | .reserved1F => some .illegalCommand

/-- Commands executed one after the other, stopping where one gives no next state (R58). -/
def Sys2Proof.Claims.execAll : List Instr → State → Host.Outcome State Fault Refusal
  | [], s => .next s
  | i :: is, s =>
    match exec i s with
    | .next t => Claims.execAll is t
    | .fault r => .fault r
    | .refused r => .refused r

/-- R25, R28: the reset values of the flag word and of the cells. -/
def Obligations.ResetStateHoldsSpecValues : Prop :=
  State.reset.f = 0x02 ∧
    (∀ n ∈ [0, 2, 3, 6, 7, 4, 5], State.reset.f.getLsbD n = false) ∧
    State.reset.f.getLsbD 1 = true ∧
    State.reset.cells = { b := 0, c := 0, d := 0, e := 0, h := 0, l := 0, a := 0 }

/-- R240, R241, R242: the reset edge. That the cycle is taken off the list of presented cycles is the
model's choice (log entry 1). -/
def Obligations.ResetEdgeWinsOverTheRequest : Prop :=
  ∀ (s : State) (w : RequestWord) (rest : List PortCycle),
    s.requests = { rst := true, req := w } :: rest →
      ∃ r : Response, r.err = none ∧ r.word = 0x0000000000 ∧
        step s = .next
          { f := 0x02
            cells := { b := 0, c := 0, d := 0, e := 0, h := 0, l := 0, a := 0 }
            requests := rest
            response := r }

/-- R243: the boot requirement. That the power-on flag word and cells are free values (R40) and the response
recorded before the first edge is 0 is the model's choice (log entry 4), and so is that each cycle is taken
off the list of presented cycles (log entry 1). -/
def Obligations.BootFromUnknownStateReachesReset : Prop :=
  ∀ (ws : List RequestWord) (rest : List PortCycle), ws ≠ [] →
    Host.Core.run Sys2Proof.core ws.length (State.powerOn (ws.map PortCycle.holdReset ++ rest)) =
      .next { State.reset with requests := rest }

/-- R250: one command per cycle. The list of presented cycles, its idle end and withFetchWord are the
model's choices (log entry 1). -/
def Obligations.StepRunsThePresentedCommand : Prop :=
  (∀ (s : State) (w : RequestWord) (rest : List PortCycle),
    s.requests = { rst := false, req := w } :: rest →
      step s = exec (decodeRequest w) { s with requests := rest }) ∧
  (∀ s : State, s.requests = [] → step s = exec .nop s) ∧
  (∀ (s : State) (nbits w : Nat),
    step (s.withFetchWord nbits w) =
      exec (decodeRequest (BitVec.ofNat 40 (w % 2 ^ nbits)))
        { s with requests := s.requests.tail })

/-- R70, R72: a sanity statement; the words stand in `spec/95_test_vectors.md`. -/
def Obligations.DecodesWordsWrittenOutFromTheSpec : Prop :=
  decodeRequest 0xFFFFFFFFE0 = .nop ∧
    decodeRequest 0x00000000E1 = .fset 7 ∧
    decodeRequest 0x0000000042 = .fclr 2 ∧
    decodeRequest 0x0000000063 = .fget 3 ∧
    decodeRequest 0x00000300C4 = .fput 6 0x03 ∧
    decodeRequest 0x0000000005 = .fclrall ∧
    decodeRequest 0x0000000006 = .fiter ∧
    decodeRequest 0x0000AA0007 = .fpar 0xAA ∧
    decodeRequest 0x00000000B0 = .rget 5 ∧
    decodeRequest 0x0000A50091 = .rput 4 0xA5 ∧
    decodeRequest 0x0000000052 = .paddr 2 ∧
    decodeRequest 0x0000001A13 = .pget 2 3 ∧
    decodeRequest 0x1234000E14 = .pput 6 1 0x1234 ∧
    decodeRequest 0x0000C50095 = .ropc 0xC5 4 ∧
    decodeRequest 0x000000C016 = .psel 3 ∧
    decodeRequest 0xFFFFFFFFEA = .reserved0A

/-- R70, R72, R73: no operand bit is dropped by the encoding. Every `Instr` is well-formed, since R13 fixes
the operand widths and the operand types have them. -/
def Obligations.DecodeOfEncodeIsTheCommand : Prop :=
  ∀ i : Instr, i.wellFormed = true ∧ decodeRequest (encode i) = i

/-- R70 to R72: the decoder reads exactly `op` and the operand fields its command uses. That the encoding has 0
in the bits it does not use is the model's choice, which R71 leaves open (log entry 9). -/
def Obligations.EncodeOfDecodeKeepsTheUsedBits : Prop :=
  ∀ w : RequestWord, encode (decodeRequest w) = w &&& Claims.usedBits (w.extractLsb' 0 5)

/-- R71: unused fields are ignored. -/
def Obligations.UnusedFieldsAreIgnored : Prop :=
  ∀ w w' : RequestWord,
    w &&& Claims.usedBits (w.extractLsb' 0 5) = w' &&& Claims.usedBits (w.extractLsb' 0 5) →
      decodeRequest w = decodeRequest w' ∧
        ∀ s : State, step (s.present { rst := false, req := w }) =
          step (s.present { rst := false, req := w' })

/-- R180: the idle cycle. -/
def Obligations.NopChangesNothingAndAnswersZero : Prop :=
  (∀ w : RequestWord, w.extractLsb' 0 5 = 0x00 → decodeRequest w = .nop) ∧
    (∀ s : State, exec .nop s = .next { s with response := {} }) ∧
    Response.word {} = 0x0000000000

/-- R101: FSET. -/
def Obligations.FsetSetsTheNamedFlagOnly : Prop :=
  (∀ w : RequestWord, w.extractLsb' 0 5 = 0x01 → decodeRequest w = .fset (w.extractLsb' 5 3)) ∧
    (∀ (k : Code) (s : State), k ∈ Claims.flagKeys →
      ∃ f' : Byte, exec (.fset k) s = .next { s with f := f', response := {} } ∧
        ∀ n < 8, f'.getLsbD n = if n = k.toNat then true else s.f.getLsbD n) ∧
    (∀ (k : Code) (s : State), k ∈ Claims.otherKeys →
      exec (.fset k) s = .next { s with response := Claims.errorAnswer .invalidFlag }) ∧
    ErrorKind.invalidFlag.code = 1

/-- R102: FCLR. -/
def Obligations.FclrClearsTheNamedFlagOnly : Prop :=
  (∀ w : RequestWord, w.extractLsb' 0 5 = 0x02 → decodeRequest w = .fclr (w.extractLsb' 5 3)) ∧
    (∀ (k : Code) (s : State), k ∈ Claims.flagKeys →
      ∃ f' : Byte, exec (.fclr k) s = .next { s with f := f', response := {} } ∧
        ∀ n < 8, f'.getLsbD n = if n = k.toNat then false else s.f.getLsbD n) ∧
    (∀ (k : Code) (s : State), k ∈ Claims.otherKeys →
      exec (.fclr k) s = .next { s with response := Claims.errorAnswer .invalidFlag }) ∧
    ErrorKind.invalidFlag.code = 1

/-- R103: FGET. -/
def Obligations.FgetReadsTheFlag : Prop :=
  (∀ w : RequestWord, w.extractLsb' 0 5 = 0x03 → decodeRequest w = .fget (w.extractLsb' 5 3)) ∧
    (∀ (k : Code) (s : State), k ∈ Claims.flagKeys →
      exec (.fget k) s =
        .next { s with response := { r8 := if s.f.getLsbD k.toNat then 0x01 else 0x00 } }) ∧
    (∀ (k : Code) (s : State), k ∈ Claims.otherKeys →
      exec (.fget k) s = .next { s with response := Claims.errorAnswer .outOfRangeFlag }) ∧
    ErrorKind.outOfRangeFlag.code = 2

/-- R104: FPUT, with the priority of its two errors. -/
def Obligations.FputWritesZeroOrOne : Prop :=
  (∀ w : RequestWord, w.extractLsb' 0 5 = 0x04 →
      decodeRequest w = .fput (w.extractLsb' 5 3) (w.extractLsb' 16 8)) ∧
    (∀ (k : Code) (b : Byte) (s : State), k ∈ Claims.flagKeys → b.toNat ≤ 1 →
      ∃ f' : Byte, exec (.fput k b) s = .next { s with f := f', response := {} } ∧
        ∀ n < 8, f'.getLsbD n = if n = k.toNat then decide (b = 1) else s.f.getLsbD n) ∧
    (∀ (k : Code) (b : Byte) (s : State), k ∈ Claims.flagKeys → 2 ≤ b.toNat →
      exec (.fput k b) s = .next { s with response := Claims.errorAnswer .invalidValue }) ∧
    (∀ (k : Code) (b : Byte) (s : State), k ∈ Claims.otherKeys →
      exec (.fput k b) s = .next { s with response := Claims.errorAnswer .outOfRangeFlag }) ∧
    ErrorKind.outOfRangeFlag.code = 2 ∧ ErrorKind.invalidValue.code = 5

/-- R100: key validity. The clause about both placements reads the parameter of R12; the model runs with 3. -/
def Obligations.NamedAndIndexedKeysErrDifferently : Prop :=
  (∀ (ac : AcPlacement) (k : Code),
      (flagOfKeyAt? ac k).isSome = true ↔
        k.toNat = 0 ∨ k.toNat = 2 ∨ k.toNat = ac.position ∨ k.toNat = 6 ∨ k.toNat = 7) ∧
    Flag.ac.bit = 3 ∧
    (∀ (k : Code) (b : Byte) (s : State), k ∉ Claims.flagKeys →
      k ∈ Claims.otherKeys ∧
        exec (.fset k) s = .next { s with response := Claims.errorAnswer .invalidFlag } ∧
        exec (.fclr k) s = .next { s with response := Claims.errorAnswer .invalidFlag } ∧
        exec (.fget k) s = .next { s with response := Claims.errorAnswer .outOfRangeFlag } ∧
        exec (.fput k b) s = .next { s with response := Claims.errorAnswer .outOfRangeFlag })

/-- R105: FCLRALL. -/
def Obligations.FclrallClearsTheFiveFlags : Prop :=
  (∀ w : RequestWord, w.extractLsb' 0 5 = 0x05 → decodeRequest w = .fclrall) ∧
    (∀ s : State, ∃ f' : Byte,
      exec .fclrall s = .next { s with f := f', response := {} } ∧
        (∀ n ∈ [0, 2, 3, 6, 7], f'.getLsbD n = false) ∧
        (∀ n ∈ [1, 4, 5], f'.getLsbD n = s.f.getLsbD n) ∧
        (s.f.getLsbD 1 = true → s.f.getLsbD 4 = false → s.f.getLsbD 5 = false → f' = 0x02))

/-- R106: FITER. -/
def Obligations.FiterReadsTheFiveFlagsInOrder : Prop :=
  (∀ w : RequestWord, w.extractLsb' 0 5 = 0x06 → decodeRequest w = .fiter) ∧
    (∀ s : State, ∃ q : BitVec 5,
      (q.getLsbD 0 = s.f.getLsbD 0 ∧ q.getLsbD 1 = s.f.getLsbD 2 ∧ q.getLsbD 2 = s.f.getLsbD 3 ∧
        q.getLsbD 3 = s.f.getLsbD 6 ∧ q.getLsbD 4 = s.f.getLsbD 7) ∧
      exec .fiter s = .next { s with response := { fseq := q } } ∧
      exec .fiter { s with response := { fseq := q } } =
        .next { s with response := { fseq := q } }) ∧
    (∀ (ac : AcPlacement) (f : Byte), (flagSequenceAt ac f).getLsbD 2 = f.getLsbD ac.position)

/-- R107: FPAR. -/
def Obligations.FparSetsParityFromTheByte : Prop :=
  (∀ w : RequestWord, w.extractLsb' 0 5 = 0x07 → decodeRequest w = .fpar (w.extractLsb' 16 8)) ∧
    (∀ (b : Byte) (s : State), ∃ f' : Byte,
      exec (.fpar b) s = .next { s with f := f', response := {} } ∧
        ∀ n < 8, f'.getLsbD n =
          if n = 2 then decide ((List.range 8).countP (fun m => b.getLsbD m) % 2 = 0)
          else s.f.getLsbD n)

/-- R108: FZERO. -/
def Obligations.FzeroSetsZeroFromTheByte : Prop :=
  (∀ w : RequestWord, w.extractLsb' 0 5 = 0x08 → decodeRequest w = .fzero (w.extractLsb' 16 8)) ∧
    (∀ (b : Byte) (s : State), ∃ f' : Byte,
      exec (.fzero b) s = .next { s with f := f', response := {} } ∧
        ∀ n < 8, f'.getLsbD n = if n = 6 then decide (b.toNat = 0) else s.f.getLsbD n)

/-- R109: FSIGN; of its two writes only the last is committed. -/
def Obligations.FsignSetsSignFromBitSeven : Prop :=
  (∀ w : RequestWord, w.extractLsb' 0 5 = 0x09 → decodeRequest w = .fsign (w.extractLsb' 16 8)) ∧
    (∀ (b : Byte) (s : State), ∃ f' : Byte,
      exec (.fsign b) s = .next { s with f := f', response := {} } ∧
        ∀ n < 8, f'.getLsbD n = if n = 7 then decide (0x80 ≤ b.toNat) else s.f.getLsbD n)

/-- R111: the combinators write disjoint bits. -/
def Obligations.CombinatorsWriteTheirOwnFlagInAnyOrder : Prop :=
  (∀ (b : Byte) (s t : State),
      (exec (.fpar b) s = .next t → ∀ n < 8, n ≠ 2 → t.f.getLsbD n = s.f.getLsbD n) ∧
      (exec (.fzero b) s = .next t → ∀ n < 8, n ≠ 6 → t.f.getLsbD n = s.f.getLsbD n) ∧
      (exec (.fsign b) s = .next t → ∀ n < 8, n ≠ 7 → t.f.getLsbD n = s.f.getLsbD n)) ∧
    (∀ (b : Byte) (s : State), ∃ f' : Byte,
      (∀ n ∈ [0, 1, 3, 4, 5], f'.getLsbD n = s.f.getLsbD n) ∧
      ∀ order ∈ [[Instr.fzero b, .fsign b, .fpar b], [.fzero b, .fpar b, .fsign b],
          [.fsign b, .fzero b, .fpar b], [.fsign b, .fpar b, .fzero b],
          [.fpar b, .fzero b, .fsign b], [.fpar b, .fsign b, .fzero b]],
        Claims.execAll order s = .next { s with f := f', response := {} })

/-- R141: RGET. -/
def Obligations.RgetReadsTheCell : Prop :=
  (∀ w : RequestWord, w.extractLsb' 0 5 = 0x10 → decodeRequest w = .rget (w.extractLsb' 5 3)) ∧
    (∀ (s : State) (k : Code) (v : Byte), (k, v) ∈ Claims.cellsByCode s.cells →
      exec (.rget k) s = .next { s with response := { r8 := v } }) ∧
    (∀ s : State, exec (.rget 6) s = .next { s with response := Claims.errorAnswer .invalidRegister }) ∧
    (∀ k : Code, k ≠ 6 →
      exec (.rget k) State.reset = .next { State.reset with response := { r8 := 0x00 } }) ∧
    ErrorKind.invalidRegister.code = 3

/-- R142: RPUT. -/
def Obligations.RputWritesTheCellOnly : Prop :=
  (∀ w : RequestWord, w.extractLsb' 0 5 = 0x11 →
      decodeRequest w = .rput (w.extractLsb' 5 3) (w.extractLsb' 16 8)) ∧
    (∀ (s : State) (k : Code) (b : Byte), k ≠ 6 → ∃ c' : Cells,
      exec (.rput k b) s = .next { s with cells := c', response := {} } ∧
        ∀ (j : Code) (old new : Byte), (j, old) ∈ Claims.cellsByCode s.cells →
          (j, new) ∈ Claims.cellsByCode c' → new = if j = k then b else old) ∧
    (∀ (s : State) (b : Byte),
      exec (.rput 6 b) s = .next { s with response := Claims.errorAnswer .invalidRegister }) ∧
    ErrorKind.invalidRegister.code = 3

/-- R143: PADDR. -/
def Obligations.PaddrFormsTheAddressOfAPair : Prop :=
  (∀ w : RequestWord, w.extractLsb' 0 5 = 0x12 → decodeRequest w = .paddr (w.extractLsb' 5 3)) ∧
    (∀ s : State,
      exec (.paddr 0) s = .next { s with response := { r16 := s.cells.b ++ s.cells.c } } ∧
      exec (.paddr 2) s = .next { s with response := { r16 := s.cells.d ++ s.cells.e } } ∧
      exec (.paddr 4) s = .next { s with response := { r16 := s.cells.h ++ s.cells.l } }) ∧
    (∀ (s : State) (k : Code), k ∈ [1, 3, 5, 6, 7] →
      exec (.paddr k) s = .next { s with response := Claims.errorAnswer .invalidPair }) ∧
    ErrorKind.invalidPair.code = 4

/-- R144: PGET. -/
def Obligations.PgetReadsAnyTwoCells : Prop :=
  (∀ w : RequestWord, w.extractLsb' 0 5 = 0x13 →
      decodeRequest w = .pget (w.extractLsb' 8 3) (w.extractLsb' 11 3)) ∧
    (∀ (s : State) (phi plo : Code) (hi lo : Byte), (phi, hi) ∈ Claims.cellsByCode s.cells →
      (plo, lo) ∈ Claims.cellsByCode s.cells →
        exec (.pget phi plo) s = .next { s with response := { r16 := hi ++ lo } }) ∧
    (∀ (s : State) (phi plo : Code), phi = 6 ∨ plo = 6 →
      exec (.pget phi plo) s = .next { s with response := Claims.errorAnswer .invalidRegister }) ∧
    (∀ s : State, exec (.pget 0 1) s = exec (.paddr 0) s ∧ exec (.pget 2 3) s = exec (.paddr 2) s ∧
      exec (.pget 4 5) s = exec (.paddr 4) s) ∧
    ErrorKind.invalidRegister.code = 3

/-- R145: PPUT, with no partial write. -/
def Obligations.PputWritesBothCellsOrNone : Prop :=
  (∀ w : RequestWord, w.extractLsb' 0 5 = 0x14 →
      decodeRequest w = .pput (w.extractLsb' 8 3) (w.extractLsb' 11 3) (w.extractLsb' 24 16)) ∧
    (∀ (s : State) (phi plo : Code) (w : Word), phi ≠ 6 → plo ≠ 6 → ∃ c' : Cells,
      exec (.pput phi plo w) s = .next { s with cells := c', response := {} } ∧
        ∀ (j : Code) (old new : Byte), (j, old) ∈ Claims.cellsByCode s.cells →
          (j, new) ∈ Claims.cellsByCode c' →
            new.toNat = if j = plo then w.toNat % 256
              else if j = phi then w.toNat / 256 else old.toNat) ∧
    (∀ (s : State) (phi plo : Code) (w : Word), phi = 6 ∨ plo = 6 →
      exec (.pput phi plo w) s = .next { s with response := Claims.errorAnswer .invalidRegister }) ∧
    ErrorKind.invalidRegister.code = 3

/-- R146: ROPC. -/
def Obligations.RopcExtractsTheRegisterField : Prop :=
  (∀ w : RequestWord, w.extractLsb' 0 5 = 0x15 →
      decodeRequest w = .ropc (w.extractLsb' 16 8) (w.extractLsb' 5 3)) ∧
    (∀ (b : Byte) (k : Code), ∃ v : Byte, v.toNat = b.toNat / 2 ^ k.toNat % 8 ∧
      ∀ s : State, exec (.ropc b k) s = .next { s with response := { r8 := v } })

/-- R147: PSEL. -/
def Obligations.PselMapsTheSelectorToItsPair : Prop :=
  (∀ w : RequestWord, w.extractLsb' 0 5 = 0x16 → decodeRequest w = .psel (w.extractLsb' 14 2)) ∧
    (∀ s : State,
      exec (.psel 0) s = .next { s with response := { dhi := 0, dlo := 1 } } ∧
      exec (.psel 1) s = .next { s with response := { dhi := 2, dlo := 3 } } ∧
      exec (.psel 2) s = .next { s with response := { dhi := 4, dlo := 5 } } ∧
      exec (.psel 3) s = .next { s with response := Claims.errorAnswer .invalidPair } ∧
      exec (.paddr 2) s = .next { s with response := { r16 := s.cells.d ++ s.cells.e } }) ∧
    ErrorKind.invalidPair.code = 4

/-- R73, R181: the reserved command numbers. That the cycle is taken off the list of presented cycles is the
model's choice (log entry 1). -/
def Obligations.ReservedNumbersRaiseIllegalCommand : Prop :=
  (∀ (w : RequestWord) (s : State),
      (0x0A ≤ w.toNat % 32 ∧ w.toNat % 32 ≤ 0x0F) ∨ 0x17 ≤ w.toNat % 32 →
        step (s.present { rst := false, req := w }) =
          .next { s with requests := s.requests.tail
                         response := Claims.errorAnswer .illegalCommand }) ∧
    (∀ (i : Instr) (s : State),
      i ∈ [.reserved0A, .reserved0B, .reserved0C, .reserved0D, .reserved0E, .reserved0F,
        .reserved17, .reserved18, .reserved19, .reserved1A, .reserved1B, .reserved1C,
        .reserved1D, .reserved1E, .reserved1F] →
        exec i s = .next { s with response := Claims.errorAnswer .illegalCommand }) ∧
    ErrorKind.illegalCommand.code = 7 ∧
    (Claims.errorAnswer .illegalCommand).word = 0x3800000000

/-- R201 to R205, R207, R208: the causes, the numbers and the effect of the errors. -/
def Obligations.ErrorsExactlyWhenTheRulesSay : Prop :=
  (∀ (i : Instr) (s t : State), exec i s = .next t →
      t.response.err = Claims.errorOf i ∧
        ∀ e : ErrorKind, t.response.err = some e →
          t = { s with response := Claims.errorAnswer e } ∧
            t.response.word = BitVec.ofNat 40 (e.code.toNat * 2 ^ 35)) ∧
    ErrorKind.invalidFlag.code = 1 ∧ ErrorKind.outOfRangeFlag.code = 2 ∧
    ErrorKind.invalidRegister.code = 3 ∧ ErrorKind.invalidPair.code = 4 ∧
    ErrorKind.invalidValue.code = 5 ∧ ErrorKind.illegalCommand.code = 7

/-- R206: TypeMismatch is defined and never produced. -/
def Obligations.TypeMismatchIsNeverProduced : Prop :=
  ErrorKind.typeMismatch.code = 6 ∧
    (∀ (i : Instr) (s t : State), exec i s = .next t → t.response.err ≠ some .typeMismatch) ∧
    (∀ s t : State, step s = .next t → t.response.err ≠ some .typeMismatch)

/-- R209, R38: the block keeps no error state. The last response is a field of the model's own (log entry 2). -/
def Obligations.ErrorsAreNotSticky : Prop :=
  ∀ (s : State) (r : Response),
    (∀ i : Instr, exec i { s with response := r } = exec i s) ∧
      step { s with response := r } = step s

/-- R216, R250, R200: every command is available at every cycle and completes in it; an error is an answer,
not a stop. The list of presented cycles is the model's own (log entry 1). -/
def Obligations.EveryCommandCompletesInEveryState : Prop :=
  (∀ (i : Instr) (s : State), ∃ t : State, exec i s = .next t ∧ t.requests = s.requests) ∧
    (∀ s : State, ∃ t : State, step s = .next t ∧ t.requests = s.requests.tail)

/-- R22, R23, R74, R206: the invariant of the block (`Sys2Proof/Safety.lean`). -/
def Obligations.StepKeepsTheInvariant : Prop :=
  ∀ s t : State, s.inv = true → step s = .next t → t.inv = true

/-- R25, R242: the invariant holds after reset. -/
def Obligations.ResetMeetsTheInvariant : Prop :=
  ∀ requests : List PortCycle, State.inv { State.reset with requests := requests } = true

/-- R110: the law of the flag family, over every sequence of port cycles. -/
def Obligations.NoCommandWritesTheFixedBits : Prop :=
  (∀ (i : Instr) (s t : State), exec i s = .next t →
      ∀ n ∈ [1, 4, 5], t.f.getLsbD n = s.f.getLsbD n) ∧
    (∀ (i : Instr) (k : Code) (b : Byte) (s t : State), i ∈ [.fset k, .fclr k, .fput k b] →
      exec i s = .next t →
        ∀ n < 8, n ≠ k.toNat ∨ k ∉ Claims.flagKeys → t.f.getLsbD n = s.f.getLsbD n) ∧
    (∀ s t : State, exec .fclrall s = .next t →
      ∀ n < 8, n ∉ [0, 2, 3, 6, 7] → t.f.getLsbD n = s.f.getLsbD n) ∧
    (∀ (i : Instr) (b : Byte) (s t : State), i ∈ [.fpar b, .fzero b, .fsign b] →
      exec i s = .next t → ∀ n < 8, n ∉ [2, 6, 7] → t.f.getLsbD n = s.f.getLsbD n) ∧
    (∀ (presented : List PortCycle) (n : Nat) (t : State),
      Host.Core.run Sys2Proof.core n { State.reset with requests := presented } = .next t →
        t.f.getLsbD 1 = true ∧ t.f.getLsbD 4 = false ∧ t.f.getLsbD 5 = false)

/-- R2: the two parts are independent. `op[4]` tells them apart (R72). -/
def Obligations.ThePartsDoNotTouchEachOther : Prop :=
  ∀ (i : Instr) (s t : State), exec i s = .next t →
    ((encode i).getLsbD 4 = false →
      ∀ c : Cells, exec i { s with cells := c } = .next { t with cells := c }) ∧
    ((encode i).getLsbD 4 = true →
      ∀ f : Byte, exec i { s with f := f } = .next { t with f := f })

/-- R24: no command reads or writes `F` as a whole word. -/
def Obligations.HiddenBitsNeverReachTheResponse : Prop :=
  ∀ (i : Instr) (s t t' : State) (f' : Byte),
    exec i s = .next t → exec i { s with f := f' } = .next t' →
      ((∀ n ∈ [0, 2, 3, 6, 7], f'.getLsbD n = s.f.getLsbD n) → t'.response = t.response) ∧
      ((∀ k : Code, i ≠ .fget k) → i ≠ .fiter → t'.response = t.response) ∧
      (∀ n ∈ [1, 4, 5], t'.f.getLsbD n = f'.getLsbD n)

/-- R55: no read has a side effect. -/
def Obligations.ReadCommandsHaveNoSideEffect : Prop :=
  ∀ (i : Instr) (k phi plo : Code) (b : Byte) (sel : Selector) (s : State),
    i ∈ [.fget k, .fiter, .rget k, .paddr k, .pget phi plo, .ropc b k, .psel sel] →
      ∃ r : Response, exec i s = .next { s with response := r } ∧
        exec i { s with response := r } = .next { s with response := r }

/-- The source's property S1, over every flag and state. -/
def Obligations.FlagSetOrClearedIsReadBack : Prop :=
  ∀ (s : State) (k j : Code) (b : Byte), k ∈ Claims.flagKeys → j ∈ Claims.flagKeys → b.toNat ≤ 1 →
    ∀ i ∈ [(Instr.fset k, (0x01 : Byte)), (.fclr k, 0x00), (.fput k b, b)], ∃ t : State,
      Claims.execAll [i.1, .fget k] s = .next t ∧ t.response = { r8 := i.2 } ∧
        (j ≠ k → ∃ u v : State, Claims.execAll [i.1, .fget j] s = .next u ∧
          exec (.fget j) s = .next v ∧ u.response = v.response)

/-- R149: the pair views have no storage of their own. The rule's HL, and BC and DE likewise. -/
def Obligations.PairViewsAliasTheCells : Prop :=
  ∀ (s : State) (x : Byte) (w : Word) (hi lo : Code) (old : Byte),
    (hi, lo) ∈ [(0, 1), (2, 3), (4, 5)] → (lo, old) ∈ Claims.cellsByCode s.cells →
      (∃ t : State, Claims.execAll [.rput hi x, .pget hi lo] s = .next t ∧
        t.response = { r16 := x ++ old }) ∧
      (∃ t : State, Claims.execAll [.pput hi lo w, .rget hi] s = .next t ∧
        t.response.r8.toNat = w.toNat / 256 ∧ t.response.err = none) ∧
      (∃ t : State, Claims.execAll [.pput hi lo w, .rget lo] s = .next t ∧
        t.response.r8.toNat = w.toNat % 256 ∧ t.response.err = none)

/-- The source's property S7, over every descriptor; the case of one code is R145's. -/
def Obligations.PairWrittenIsReadBack : Prop :=
  ∀ (s : State) (phi plo : Code) (w : Word), phi ≠ 6 → plo ≠ 6 →
    ∃ t : State, Claims.execAll [.pput phi plo w, .pget phi plo] s = .next t ∧
      t.response = { r16 := if phi = plo then w.extractLsb' 0 8 ++ w.extractLsb' 0 8 else w }

/-- R33, R34: the two conventions name the same pairs. -/
def Obligations.SelectedPairIsTheAddressPair : Prop :=
  ∀ (s : State) (sel : Selector), sel ≠ 3 → ∃ t : State,
    exec (.psel sel) s = .next t ∧ t.response.err = none ∧
      exec (.pget t.response.dhi t.response.dlo) s = exec (.paddr (BitVec.ofNat 3 (2 * sel.toNat))) s

/-- R18: pending writes are committed together, the later one winning. -/
def Obligations.LaterPendingWriteIsCommitted : Prop :=
  (∀ (s : State) (ws ws' : List PendingWrite) (fl : Flag) (v : Bool),
      (∀ v', PendingWrite.flag fl v' ∉ ws') →
        readFlag (s.commit (ws ++ .flag fl v :: ws')).f fl = v ∧
        readFlag (s.commit ws').f fl = readFlag s.f fl) ∧
    (∀ (s : State) (ws ws' : List PendingWrite) (r : Reg) (v : Byte),
      (∀ v', PendingWrite.cell r v' ∉ ws') →
        (s.commit (ws ++ .cell r v :: ws')).cells.read r = v ∧
        (s.commit ws').cells.read r = s.cells.read r) ∧
    (∀ (s : State) (ws : List PendingWrite),
      (∀ n ∈ [1, 4, 5], (s.commit ws).f.getLsbD n = s.f.getLsbD n) ∧
      (s.commit ws).requests = s.requests ∧ (s.commit ws).response = s.response)

/-- R58, R250, R251: commands take effect strictly in order, one a cycle. The list of presented cycles is the
model's own (log entry 1). -/
def Obligations.CommandsTakeEffectInOrder : Prop :=
  ∀ (s : State) (i j : Instr) (rest : List PortCycle),
    s.requests = { rst := false, req := encode i } :: { rst := false, req := encode j } :: rest →
      ∃ t : State, exec i { s with requests := rest } = .next t ∧
        Host.Core.run Sys2Proof.core 2 s = exec j t

/-- R251: RPUT and RGET over every state, value and storage code, and the example of the rule (RPUT H, PADDR H)
over every state and value. That each cycle is taken off the list of presented cycles is the model's choice
(log entry 1). -/
def Obligations.WriteIsVisibleToTheNextCommand : Prop :=
  ∀ (s : State) (k : Code) (v : Byte) (rest : List PortCycle), k ≠ 6 →
    (∃ t : State,
      Host.Core.run Sys2Proof.core 2
        { s with requests := { rst := false, req := encode (.rput k v) } ::
                   { rst := false, req := encode (.rget k) } :: rest } = .next t ∧
        t.response = { r8 := v } ∧ t.requests = rest) ∧
    (∃ t : State,
      Host.Core.run Sys2Proof.core 2
        { s with requests := { rst := false, req := encode (.rput 4 v) } ::
                   { rst := false, req := encode (.paddr 4) } :: rest } = .next t ∧
        t.response = { r16 := v ++ s.cells.l } ∧ t.requests = rest)

/-- R74: the layout of the response word and what drives its fields. -/
def Obligations.ResponseWordHasTheFieldsOfItsTable : Prop :=
  (∀ r : Response,
      r.word.extractLsb' 0 8 = r.r8 ∧ r.word.extractLsb' 8 16 = r.r16 ∧
      r.word.extractLsb' 24 3 = r.dhi ∧ r.word.extractLsb' 27 3 = r.dlo ∧
      r.word.extractLsb' 30 5 = r.fseq ∧ r.word.extractLsb' 35 3 = errField r.err ∧
      r.word.extractLsb' 38 2 = 0) ∧
    (∀ (i : Instr) (s t : State), exec i s = .next t →
      (t.response.r8 ≠ 0 → ∃ (k : Code) (b : Byte), i ∈ [.fget k, .rget k, .ropc b k]) ∧
      (t.response.r16 ≠ 0 → ∃ k k' : Code, i ∈ [.paddr k, .pget k k']) ∧
      (t.response.dhi ≠ 0 ∨ t.response.dlo ≠ 0 → ∃ sel : Selector, i = .psel sel) ∧
      (t.response.fseq ≠ 0 → i = .fiter) ∧
      (t.response.err ≠ none → t.response = { err := t.response.err }))

/-- R75: the error codes. -/
def Obligations.ErrorNumbersAreThoseOfTheTable : Prop :=
  errField none = 0 ∧ errField (some .invalidFlag) = 1 ∧ errField (some .outOfRangeFlag) = 2 ∧
    errField (some .invalidRegister) = 3 ∧ errField (some .invalidPair) = 4 ∧
    errField (some .invalidValue) = 5 ∧ errField (some .typeMismatch) = 6 ∧
    errField (some .illegalCommand) = 7

/-- The frame of the condition_flags_register commands (the "written by" column of R21). The block has no
memory and no program counter (R35, R50). -/
def Obligations.FlagCommandsFrame : Prop :=
  ∀ (k : Code) (b : Byte) (s t : State) (i : Instr) (written : List Nat),
    (i, written) ∈ [(Instr.nop, ([] : List Nat)), (.fset k, [k.toNat]), (.fclr k, [k.toNat]),
        (.fget k, []), (.fput k b, [k.toNat]), (.fclrall, [0, 2, 3, 6, 7]), (.fiter, []),
        (.fpar b, [2]), (.fzero b, [6]), (.fsign b, [7])] →
      exec i s = .next t →
        t.cells = s.cells ∧ t.requests = s.requests ∧
          ∀ n : Nat, n ∉ written → t.f.getLsbD n = s.f.getLsbD n

/-- The frame of the register_file commands. The block has no memory and no program counter (R35, R50). -/
def Obligations.RegisterFileCommandsFrame : Prop :=
  ∀ (k phi plo : Code) (b : Byte) (w : Word) (sel : Selector) (s t : State) (i : Instr)
      (written : List Code),
    (i, written) ∈ [(Instr.rget k, ([] : List Code)), (.rput k b, [k]), (.paddr k, []),
        (.pget phi plo, []), (.pput phi plo w, [phi, plo]), (.ropc b k, []), (.psel sel, [])] →
      exec i s = .next t →
        t.f = s.f ∧ t.requests = s.requests ∧
          ∀ (j : Code) (v : Byte), j ∉ written → (j, v) ∈ Claims.cellsByCode s.cells →
            (j, v) ∈ Claims.cellsByCode t.cells

/-- R148: M never has a value in the block. -/
def Obligations.CodeSixHasNoCell : Prop :=
  (∀ (i : Instr) (s t : State), exec i s = .next t →
      ((∀ k b, i ≠ .rput k b) → (∀ phi plo w, i ≠ .pput phi plo w) → t.cells = s.cells) ∧
      ((∀ k, i ≠ .rget k) → (∀ k, i ≠ .paddr k) → (∀ phi plo, i ≠ .pget phi plo) →
        ∀ (c : Cells) (t' : State), exec i { s with cells := c } = .next t' →
          t'.response = t.response)) ∧
    (∀ (s : State) (i : Instr) (k : Code) (b : Byte) (w : Word),
      i ∈ [.rget 6, .rput 6 b, .pget 6 k, .pget k 6, .pput 6 k w, .pput k 6 w] →
        exec i s = .next { s with response := Claims.errorAnswer .invalidRegister }) ∧
    (∀ (s t t' : State) (k : Code) (x : Byte), exec (.paddr k) s = .next t →
      exec (.paddr k) { s with cells := { s.cells with a := x } } = .next t' →
        t'.response = t.response)

/-- R83, R84: a sanity statement on one line for each name. -/
def Obligations.AliasesAssembleLikeTheirMnemonics : Prop :=
  Assembler.assemble "FSET CY" = some (.fset 0) ∧
    Assembler.assemble "FPUT Z, 1" = some (.fput 6 1) ∧
    Assembler.assemble "RPUT H, 0x20" = some (.rput 4 0x20) ∧
    Assembler.assemble "PADDR H" = some (.paddr 4) ∧
    Assembler.assemble "PPUT HL, 0x1234" = some (.pput 4 5 0x1234) ∧
    Assembler.assemble "ROPC 0b01111110, 3" = some (.ropc 0x7E 3) ∧
(∀ lines ∈ [("set AC", "FSET AC"),
        ("clear S", "FCLR S"),
        ("get P", "FGET P"),
        ("set_value Z, 1", "FPUT Z, 1"),
        ("clear_all", "FCLRALL"),
        ("iter", "FITER"),
        ("calculate_parity 0xFF", "FPAR 0xFF"),
        ("set_zero 5", "FZERO 5"),
        ("set_sign 0x80", "FSIGN 0x80"),
        ("address_from_pair H", "PADDR H"),
        ("value_from_pair DE", "PGET DE"),
        ("set_value_for_pair BC, 255", "PPUT BC, 255"),
        ("register_from_opcode 0x7E, 3", "ROPC 0x7E, 3"),
        ("pair_from_encoding 2", "PSEL 2")],
      (Assembler.assemble lines.1).isSome = true ∧
        Assembler.assemble lines.1 = Assembler.assemble lines.2)
end

