-- ==== Sys2Proof/Laws/Decode.lean ====
section
/-! SUPPORT. The fields of a packed request word, and the last row of the decoder. -/

namespace Sys2Proof.Laws

open Sys2Proof

variable (op : Nat) (o : OperandFields)

/-- The bit `n` of a field of a packed word is a bit of the word. -/
theorem extractLsb'_packRequest {width start : Nat} (v : BitVec width) (w : RequestWord)
    (h : ∀ n < width, w.getLsbD (start + n) = v.getLsbD n) : w.extractLsb' start width = v := by
  apply BitVec.eq_of_getLsbD_eq
  intro n hn
  simp only [BitVec.getLsbD_extractLsb', hn, decide_true, Bool.true_and]
  exact h n hn

/-- Where each bit of a packed request word comes from (R70). -/
theorem getLsbD_packRequest (n : Nat) :
    (packRequest op o).getLsbD n =
      if n < 5 then (BitVec.ofNat 5 op).getLsbD n
      else if n < 8 then (BitVec.ofNat 3 o.k).getLsbD (n - 5)
      else if n < 11 then (BitVec.ofNat 3 o.phi).getLsbD (n - 8)
      else if n < 14 then (BitVec.ofNat 3 o.plo).getLsbD (n - 11)
      else if n < 16 then (BitVec.ofNat 2 o.sel).getLsbD (n - 14)
      else if n < 24 then (BitVec.ofNat 8 o.b).getLsbD (n - 16)
      else (BitVec.ofNat 16 o.w).getLsbD (n - 24) := by
  unfold packRequest
  simp only [BitVec.getLsbD_append]
  grind

theorem fieldOp_packRequest : fieldOp (packRequest op o) = BitVec.ofNat 5 op := by
  apply extractLsb'_packRequest
  intro n hn
  rw [getLsbD_packRequest]
  grind

theorem fieldK_packRequest : fieldK (packRequest op o) = BitVec.ofNat 3 o.k := by
  apply extractLsb'_packRequest
  intro n hn
  rw [getLsbD_packRequest]
  grind

theorem fieldPhi_packRequest : fieldPhi (packRequest op o) = BitVec.ofNat 3 o.phi := by
  apply extractLsb'_packRequest
  intro n hn
  rw [getLsbD_packRequest]
  grind

theorem fieldPlo_packRequest : fieldPlo (packRequest op o) = BitVec.ofNat 3 o.plo := by
  apply extractLsb'_packRequest
  intro n hn
  rw [getLsbD_packRequest]
  grind

theorem fieldSel_packRequest : fieldSel (packRequest op o) = BitVec.ofNat 2 o.sel := by
  apply extractLsb'_packRequest
  intro n hn
  rw [getLsbD_packRequest]
  grind

theorem fieldB_packRequest : fieldB (packRequest op o) = BitVec.ofNat 8 o.b := by
  apply extractLsb'_packRequest
  intro n hn
  rw [getLsbD_packRequest]
  grind

theorem fieldW_packRequest : fieldW (packRequest op o) = BitVec.ofNat 16 o.w := by
  apply extractLsb'_packRequest
  intro n hn
  rw [getLsbD_packRequest]
  grind

/-- The decoder's last row is the command number 0x1F and no other (R73). -/
theorem decodeRequest_reserved1F (w : RequestWord) :
    decodeRequest w = .reserved1F ↔ fieldOp w = 0x1F := by
  have hlt := (fieldOp w).isLt
  constructor
  · intro h
    unfold decodeRequest at h
    split at h <;> try (cases h; done)
    apply BitVec.eq_of_toNat_eq
    change (fieldOp w).toNat = 31
    grind
  · intro h
    simp [decodeRequest, h]

end Sys2Proof.Laws
end

