-- ==== Sys2Proof/Laws/Flags.lean ====
section
/-! SUPPORT. What reading and writing the flag word do, bit by bit. -/

namespace Sys2Proof.Machine

/-- A bit write sets its own bit and no other. -/
theorem getLsbD_writeBit (f : Byte) (n m : Nat) (v : Bool) (hn : n < 8) :
    (writeBit f n v).getLsbD m = if m = n then v else f.getLsbD m := by
  have hbit : (1#8 <<< n).getLsbD m = decide (m = n) := by
    rcases Nat.lt_trichotomy m n with h | h | h
    · simp [h, Nat.ne_of_lt h]
    · subst h
      simp [hn]
    · have h0 : m - n ≠ 0 := by omega
      simp [Nat.not_lt.mpr h.le, Nat.ne_of_gt h, h0]
  by_cases hm : m < 8
  · cases v
    · simp only [writeBit, Bool.false_eq_true, if_false, BitVec.getLsbD_and, BitVec.getLsbD_not, hbit]
      grind
    · simp only [writeBit, if_true, BitVec.getLsbD_or, hbit]
      grind
  · have hne : m ≠ n := by omega
    rw [if_neg hne, BitVec.getLsbD_of_ge _ m (Nat.le_of_not_lt hm),
      BitVec.getLsbD_of_ge _ m (Nat.le_of_not_lt hm)]

/-- Every flag has a bit of the flag word. -/
theorem Flag.bit_lt (fl : Flag) : fl.bit < 8 := by
  cases fl <;> decide

/-- Two flags have two bits. -/
theorem Flag.bit_inj {fl fl' : Flag} : fl.bit = fl'.bit ↔ fl = fl' := by
  cases fl <;> cases fl' <;> decide

/-- A flag write sets the bit of its flag and no other. -/
theorem getLsbD_writeFlag (f : Byte) (fl : Flag) (v : Bool) (m : Nat) :
    (writeFlag f fl v).getLsbD m = if m = fl.bit then v else f.getLsbD m :=
  getLsbD_writeBit f fl.bit m v fl.bit_lt

/-- A flag read after a flag write. -/
theorem readFlag_writeFlag (f : Byte) (fl fl' : Flag) (v : Bool) :
    readFlag (writeFlag f fl v) fl' = if fl' = fl then v else readFlag f fl' := by
  simp only [readFlag, readBit, getLsbD_writeFlag, Flag.bit_inj]

/-- Two writes to one flag: the later one stays (R18). -/
theorem writeFlag_writeFlag (f : Byte) (fl : Flag) (v v' : Bool) :
    writeFlag (writeFlag f fl v) fl v' = writeFlag f fl v' := by
  apply BitVec.eq_of_getLsbD_eq
  intro m _
  simp only [getLsbD_writeFlag]
  split <;> rfl

/-- Writes to two flags: their order is of no account. -/
theorem writeFlag_comm (f : Byte) {fl fl' : Flag} (v v' : Bool) (h : fl ≠ fl') :
    writeFlag (writeFlag f fl v) fl' v' = writeFlag (writeFlag f fl' v') fl v := by
  apply BitVec.eq_of_getLsbD_eq
  intro m _
  have hb : fl.bit ≠ fl'.bit := fun e => h (Flag.bit_inj.mp e)
  simp only [getLsbD_writeFlag]
  grind

/-- The key of a flag names the flag, and no other key does (R21, R79, R100). -/
theorem flagOfKey?_eq_some (k : Code) (fl : Flag) :
    flagOfKey? k = some fl ↔ k.toNat = fl.bit := by
  revert k
  cases fl <;> decide

/-- The keys that name no flag (R100). -/
theorem flagOfKey?_eq_none (k : Code) : flagOfKey? k = none ↔ k = 1 ∨ k = 4 ∨ k = 5 := by
  revert k
  decide

end Sys2Proof.Machine
end

