-- ==== Sys2Proof/Laws/Operands.lean ====
section
/-! SUPPORT. Which codes name a register or a pair. -/

namespace Sys2Proof.Machine

/-- A code names the register whose code it is (R26, R76). -/
theorem storageReg?_eq_some (k : Code) (r : Reg) : storageReg? k = some r ↔ k = r.code := by
  revert k
  cases r <;> decide

/-- Code 6 (M) alone has no cell (R140). -/
theorem storageReg?_eq_none (k : Code) : storageReg? k = none ↔ k = 6 := by
  revert k
  decide

/-- A code other than 6 is the code of a register. -/
theorem exists_reg_of_ne_six {k : Code} (h : k ≠ 6) : ∃ r : Reg, k = r.code := by
  obtain ⟨r, hr⟩ := Option.ne_none_iff_exists'.mp (mt (storageReg?_eq_none k).mp h)
  exact ⟨r, (storageReg?_eq_some k r).mp hr⟩

@[simp] theorem storageReg?_code (r : Reg) : storageReg? r.code = some r :=
  (storageReg?_eq_some _ _).mpr rfl

/-- Two registers have two codes. -/
theorem Reg.code_inj {r r' : Reg} : r.code = r'.code ↔ r = r' := by
  cases r <;> cases r' <;> decide

/-- The codes that are no address-pair code (R78). -/
theorem pairOfAddrCode?_eq_none (k : Code) :
    pairOfAddrCode? k = none ↔ k = 1 ∨ k = 3 ∨ k = 5 ∨ k = 6 ∨ k = 7 := by
  revert k
  decide

/-- The selector that names no pair (R77). -/
theorem pairOfSel?_eq_none (sel : Selector) : pairOfSel? sel = none ↔ sel = 3 := by
  revert sel
  decide

/-- A descriptor of two registers (R144, R145). -/
@[simp] theorem pairOfCodes?_code (hi lo : Reg) :
    pairOfCodes? hi.code lo.code = some { hi := hi, lo := lo } := by
  simp [pairOfCodes?]

/-- The descriptors with a code that has no cell. -/
theorem pairOfCodes?_eq_none (phi plo : Code) :
    pairOfCodes? phi plo = none ↔ phi = 6 ∨ plo = 6 := by
  revert phi plo
  decide

end Sys2Proof.Machine
end

