-- ==== Sys2Proof/Laws/State.lean ====
section
/-! SUPPORT. What the updates of the state leave in each field: one lemma per field per update. -/

namespace Sys2Proof.Machine

variable (s : State) (fl : Flag) (v : Bool) (r : Reg) (x : Byte) (c : PortCycle)

@[simp] theorem State.apply_flag_f : (s.apply (.flag fl v)).f = writeFlag s.f fl v := rfl
@[simp] theorem State.apply_flag_cells : (s.apply (.flag fl v)).cells = s.cells := rfl
@[simp] theorem State.apply_cell_f : (s.apply (.cell r x)).f = s.f := rfl
@[simp] theorem State.apply_cell_cells : (s.apply (.cell r x)).cells = s.cells.write r x := rfl

@[simp] theorem State.apply_requests (p : PendingWrite) : (s.apply p).requests = s.requests := by
  cases p <;> rfl

@[simp] theorem State.apply_response (p : PendingWrite) : (s.apply p).response = s.response := by
  cases p <;> rfl

@[simp] theorem State.resetEdge_f : s.resetEdge.f = State.reset.f := rfl
@[simp] theorem State.resetEdge_cells : s.resetEdge.cells = State.reset.cells := rfl
@[simp] theorem State.resetEdge_requests : s.resetEdge.requests = s.requests := rfl
@[simp] theorem State.resetEdge_response : s.resetEdge.response = {} := rfl

@[simp] theorem State.takePresented_f : s.takePresented.f = s.f := rfl
@[simp] theorem State.takePresented_cells : s.takePresented.cells = s.cells := rfl
@[simp] theorem State.takePresented_requests : s.takePresented.requests = s.requests.tail := rfl
@[simp] theorem State.takePresented_response : s.takePresented.response = s.response := rfl

@[simp] theorem State.present_presented : (s.present c).presented = c := rfl
@[simp] theorem State.present_f : (s.present c).f = s.f := rfl
@[simp] theorem State.present_cells : (s.present c).cells = s.cells := rfl
@[simp] theorem State.present_response : (s.present c).response = s.response := rfl
@[simp] theorem State.present_takePresented : (s.present c).takePresented = s.takePresented := rfl

end Sys2Proof.Machine
end

