-- ==== Sys2Proof/Laws/Ops.lean ====
section
/-! SUPPORT. What the shared operations do: one lemma each for reads, writes, the commit of pending
writes, `finish` and `raise`. -/

namespace Sys2Proof.Machine

/-- A cell read after a cell write. -/
theorem Cells.read_write (c : Cells) (r r' : Reg) (v : Byte) :
    (c.write r v).read r' = if r' = r then v else c.read r' := by
  cases r <;> cases r' <;> rfl

/-- Cells that read alike are alike. -/
theorem Cells.ext_read {c c' : Cells} (h : ∀ r, c.read r = c'.read r) : c = c' := by
  cases c
  cases c'
  simpa [Cells.read] using
    And.intro (h .b) (And.intro (h .c) (And.intro (h .d) (And.intro (h .e)
      (And.intro (h .h) (And.intro (h .l) (h .a))))))

/-- The value of a pair is the high byte above the low byte (R31). -/
theorem Cells.pair_toNat (c : Cells) (p : PairDesc) :
    (c.pair p).toNat = (c.read p.hi).toNat * 256 + (c.read p.lo).toNat := by
  have hhi := (c.read p.hi).isLt
  have hlo := (c.read p.lo).isLt
  have hsh : (c.read p.hi).toNat <<< 8 % 2 ^ 16 = (c.read p.hi).toNat <<< 8 := by
    rw [Nat.shiftLeft_eq]
    omega
  simp only [Cells.pair, BitVec.toNat_or, BitVec.toNat_shiftLeft, BitVec.toNat_setWidth]
  rw [Nat.mod_eq_of_lt (by omega : (c.read p.hi).toNat < 2 ^ 16),
    Nat.mod_eq_of_lt (by omega : (c.read p.lo).toNat < 2 ^ 16), hsh,
    ← Nat.shiftLeft_add_eq_or_of_lt hlo, Nat.shiftLeft_eq]

@[simp] theorem State.commit_nil (s : State) : s.commit [] = s := rfl

@[simp] theorem State.commit_cons (s : State) (p : PendingWrite) (ws : List PendingWrite) :
    s.commit (p :: ws) = (s.apply p).commit ws := rfl

/-- The commit takes nothing off the engine's list. -/
@[simp] theorem State.commit_requests (s : State) (ws : List PendingWrite) :
    (s.commit ws).requests = s.requests := by
  induction ws generalizing s with
  | nil => rfl
  | cons p ws ih => simp [ih]

/-- The commit leaves the last response. -/
@[simp] theorem State.commit_response (s : State) (ws : List PendingWrite) :
    (s.commit ws).response = s.response := by
  induction ws generalizing s with
  | nil => rfl
  | cons p ws ih => simp [ih]

/-- The commit does not read the last response. -/
theorem State.commit_withResponse (s : State) (ws : List PendingWrite) (r : Response) :
    { s with response := r }.commit ws = { s.commit ws with response := r } := by
  induction ws generalizing s with
  | nil => rfl
  | cons p ws ih =>
    rw [State.commit_cons, State.commit_cons, ← ih]
    cases p <;> rfl

/-- The commit does not read what the engine presents. -/
theorem State.commit_withRequests (s : State) (ws : List PendingWrite) (q : List PortCycle) :
    { s with requests := q }.commit ws = { s.commit ws with requests := q } := by
  induction ws generalizing s with
  | nil => rfl
  | cons p ws ih =>
    rw [State.commit_cons, State.commit_cons, ← ih]
    cases p <;> rfl

/-- A bit of `F` that no pending write names is as it was (R110). -/
theorem State.commit_f_bit (s : State) (ws : List PendingWrite) (n : Nat)
    (h : ∀ fl v, PendingWrite.flag fl v ∈ ws → n ≠ fl.bit) :
    (s.commit ws).f.getLsbD n = s.f.getLsbD n := by
  induction ws generalizing s with
  | nil => rfl
  | cons p ws ih =>
    rw [State.commit_cons, ih _ fun fl v hm => h fl v (List.mem_cons_of_mem _ hm)]
    cases p with
    | flag fl v => simp [getLsbD_writeFlag, h fl v List.mem_cons_self]
    | cell r v => rfl

/-- What a command that succeeds gives. -/
@[simp] theorem finish_eq (ws : List PendingWrite) (r : Response) (s : State) :
    finish ws r s = .next { s.commit ws with response := r } := rfl

/-- What a command that raises an error gives (R208). -/
@[simp] theorem raise_eq (e : ErrorKind) (s : State) :
    raise e s = .next { s with response := { err := some e } } := rfl

end Sys2Proof.Machine
end

