-- ==== Sys2Proof/Laws/Exec.lean ====
section
/-! SUPPORT. What a command and a cycle can do, said once: a command either raises an error, or commits
pending writes and answers without one. -/

namespace Sys2Proof.Machine

/-- Every command raises an error that is not TypeMismatch, or finishes with a response that carries
none. -/
theorem exec_cases (i : Instr) (s : State) :
    (∃ e, e ≠ .typeMismatch ∧ exec i s = raise e s) ∨
      ∃ ws r, r.err = none ∧ exec i s = finish ws r s := by
  cases i <;> simp only [exec]
  case fset k => unfold execFset; split; exacts [.inl ⟨_, by decide, rfl⟩, .inr ⟨_, _, rfl, rfl⟩]
  case fclr k => unfold execFclr; split; exacts [.inl ⟨_, by decide, rfl⟩, .inr ⟨_, _, rfl, rfl⟩]
  case fget k => unfold execFget; split; exacts [.inl ⟨_, by decide, rfl⟩, .inr ⟨_, _, rfl, rfl⟩]
  case fput k b =>
    unfold execFput
    split
    · exact .inl ⟨_, by decide, rfl⟩
    · split
      exacts [.inl ⟨_, by decide, rfl⟩, .inr ⟨_, _, rfl, rfl⟩]
  case rget k => unfold execRget; split; exacts [.inl ⟨_, by decide, rfl⟩, .inr ⟨_, _, rfl, rfl⟩]
  case rput k b => unfold execRput; split; exacts [.inl ⟨_, by decide, rfl⟩, .inr ⟨_, _, rfl, rfl⟩]
  case paddr k => unfold execPaddr; split; exacts [.inl ⟨_, by decide, rfl⟩, .inr ⟨_, _, rfl, rfl⟩]
  case pget x y => unfold execPget; split; exacts [.inl ⟨_, by decide, rfl⟩, .inr ⟨_, _, rfl, rfl⟩]
  case pput x y w => unfold execPput; split; exacts [.inl ⟨_, by decide, rfl⟩, .inr ⟨_, _, rfl, rfl⟩]
  case psel x => unfold execPsel; split; exacts [.inl ⟨_, by decide, rfl⟩, .inr ⟨_, _, rfl, rfl⟩]
  case nop | fclrall | fiter | fpar | fzero | fsign | ropc => exact .inr ⟨_, _, rfl, rfl⟩
  all_goals exact .inl ⟨.illegalCommand, by decide, rfl⟩

/-- Inversion: what the next state of a command is. -/
theorem exec_next {i : Instr} {s t : State} (h : exec i s = .next t) :
    (∃ e, e ≠ .typeMismatch ∧ t = { s with response := { err := some e } }) ∨
      ∃ ws r, r.err = none ∧ t = { s.commit ws with response := r } := by
  rcases exec_cases i s with ⟨e, he, hx⟩ | ⟨ws, r, hr, hx⟩
  · rw [hx, raise_eq] at h
    exact .inl ⟨e, he, (Host.Outcome.next.inj h).symm⟩
  · rw [hx, finish_eq] at h
    exact .inr ⟨ws, r, hr, (Host.Outcome.next.inj h).symm⟩

/-- Inversion: a cycle is a reset edge or the command the request word selects. -/
theorem step_cases (s : State) :
    (s.presented.rst = true ∧ step s = .next s.takePresented.resetEdge) ∨
      (s.presented.rst = false ∧ step s = exec (decodeRequest s.presented.req) s.takePresented) := by
  unfold step
  cases s.presented.rst
  · exact .inr ⟨rfl, rfl⟩
  · exact .inl ⟨rfl, rfl⟩

end Sys2Proof.Machine
end

