-- ==== Sys2Proof/Laws/PerInstr.lean ====
section
/-! SUPPORT. Statements made of every command as syntax, one lemma per constructor. -/

namespace Sys2Proof.Laws.WellFormed

/-- Every command the syntax can express presents operands that fit their ports: "Software inputs
outside these widths are not representable at the ports" (`spec/00_scope.md` R13). -/
def Statement (i : Instr) : Prop :=
  i.wellFormed = true

/-- A field the command does not use is 0, which fits any width. -/
theorem pos {n : Nat} : 0 < 2 ^ n := Nat.two_pow_pos n

/-- Fields below their bounds fit. -/
theorem fit_of_lt {o : OperandFields} (hk : o.k < 2 ^ 3) (hphi : o.phi < 2 ^ 3)
    (hplo : o.plo < 2 ^ 3) (hsel : o.sel < 2 ^ 2) (hb : o.b < 2 ^ 8) (hw : o.w < 2 ^ 16) :
    o.fit = true := by
  simp only [OperandFields.fit, hk, hphi, hplo, hsel, hb, hw, decide_true, Bool.and_true]

theorem nop : Statement .nop :=
  rfl

theorem fset (k : Code) : Statement (.fset k) :=
  fit_of_lt k.isLt pos pos pos pos pos

theorem fclr (k : Code) : Statement (.fclr k) :=
  fit_of_lt k.isLt pos pos pos pos pos

theorem fget (k : Code) : Statement (.fget k) :=
  fit_of_lt k.isLt pos pos pos pos pos

theorem fput (k : Code) (b : Byte) : Statement (.fput k b) :=
  fit_of_lt k.isLt pos pos pos b.isLt pos

theorem fclrall : Statement .fclrall :=
  rfl

theorem fiter : Statement .fiter :=
  rfl

theorem fpar (b : Byte) : Statement (.fpar b) :=
  fit_of_lt pos pos pos pos b.isLt pos

theorem fzero (b : Byte) : Statement (.fzero b) :=
  fit_of_lt pos pos pos pos b.isLt pos

theorem fsign (b : Byte) : Statement (.fsign b) :=
  fit_of_lt pos pos pos pos b.isLt pos

theorem rget (k : Code) : Statement (.rget k) :=
  fit_of_lt k.isLt pos pos pos pos pos

theorem rput (k : Code) (b : Byte) : Statement (.rput k b) :=
  fit_of_lt k.isLt pos pos pos b.isLt pos

theorem paddr (k : Code) : Statement (.paddr k) :=
  fit_of_lt k.isLt pos pos pos pos pos

theorem pget (phi : Code) (plo : Code) : Statement (.pget phi plo) :=
  fit_of_lt pos phi.isLt plo.isLt pos pos pos

theorem pput (phi : Code) (plo : Code) (w : Word) : Statement (.pput phi plo w) :=
  fit_of_lt pos phi.isLt plo.isLt pos pos w.isLt

theorem ropc (b : Byte) (k : Code) : Statement (.ropc b k) :=
  fit_of_lt k.isLt pos pos pos b.isLt pos

theorem psel (sel : Selector) : Statement (.psel sel) :=
  fit_of_lt pos pos pos sel.isLt pos pos

theorem reserved0A : Statement .reserved0A :=
  rfl

theorem reserved0B : Statement .reserved0B :=
  rfl

theorem reserved0C : Statement .reserved0C :=
  rfl

theorem reserved0D : Statement .reserved0D :=
  rfl

theorem reserved0E : Statement .reserved0E :=
  rfl

theorem reserved0F : Statement .reserved0F :=
  rfl

theorem reserved17 : Statement .reserved17 :=
  rfl

theorem reserved18 : Statement .reserved18 :=
  rfl

theorem reserved19 : Statement .reserved19 :=
  rfl

theorem reserved1A : Statement .reserved1A :=
  rfl

theorem reserved1B : Statement .reserved1B :=
  rfl

theorem reserved1C : Statement .reserved1C :=
  rfl

theorem reserved1D : Statement .reserved1D :=
  rfl

theorem reserved1E : Statement .reserved1E :=
  rfl

theorem reserved1F : Statement .reserved1F :=
  rfl

end Sys2Proof.Laws.WellFormed
end

