-- ==== Sys2Proof/Laws/Safety.lean ====
section
/-! SUPPORT. What the flag word's condition says bit by bit, and that the reset value meets it. -/

namespace Sys2Proof.Machine

/-- The fixed bit and the reserved bits (R22, R23). -/
theorem flagWordOk_iff (f : Byte) :
    flagWordOk f = true ↔ f.getLsbD 1 = true ∧ f.getLsbD 4 = false ∧ f.getLsbD 5 = false := by
  simp [flagWordOk, readBit, reservedBits, reservedBitsAt, acPlacement, Config.acPlacement]

/-- The reset value of `F` is as the spec fixes it (R25). -/
theorem flagWordOk_reset : flagWordOk State.reset.f = true := by decide

/-- A response without an error has the shape of a response. -/
theorem Response.ok_of_err_none {r : Response} (h : r.err = none) : r.ok = true := by
  simp [Response.ok, h]

/-- A response that carries an error and nothing else has the shape of a response. -/
theorem Response.ok_error {e : ErrorKind} (h : e ≠ .typeMismatch) :
    Response.ok { err := some e } = true := by
  simp [Response.ok, h]

end Sys2Proof.Machine
end

