-- ==== Sys2Proof/Tests/Slice0.lean ====
section
/-! SUPPORT. Tests of the model against `spec/95_test_vectors.md` and against words written out from
`spec/30_encoding.md` R70 and R72, and the witnesses of the statements' hypotheses. -/

namespace Sys2Proof.Tests

open Sys2Proof Sys2Proof.Machine

/-- The start state of V-R1 to V-R4: each cell its own value, `F = 0x02`. -/
def probe : State :=
  { f := 0x02
    cells := { b := 0x11, c := 0x22, d := 0x33, e := 0x44, h := 0x55, l := 0x66, a := 0x77 }
    requests := []
    response := {} }

/-- The start state with every addressable flag set (V-F1, V-F2, V-F5). -/
def allSet : State := { probe with f := 0xCF }

/-- The outcome is this next state. -/
def nextIs (o : Host.Outcome State Fault Refusal) (t : State) : Bool :=
  match o with
  | .next u => decide (u = t)
  | .fault _ => false
  | .refused _ => false

/-- The outcome is a next state with this response word, its flag word and cells those of `s`. -/
def answers (o : Host.Outcome State Fault Refusal) (s : State) (word : ResponseWord) : Bool :=
  match o with
  | .next u => decide (u.f = s.f) && decide (u.cells = s.cells) && decide (u.response.word = word)
  | .fault _ => false
  | .refused _ => false

/-! ### WellFormed refuses what no port can carry (R13): one ill-formed term per check -/

theorem test_wide_k_refused : OperandFields.fit { k := 8 } = false := by decide
theorem test_wide_phi_refused : OperandFields.fit { phi := 8 } = false := by decide
theorem test_wide_plo_refused : OperandFields.fit { plo := 8 } = false := by decide
theorem test_wide_sel_refused : OperandFields.fit { sel := 4 } = false := by decide
theorem test_wide_b_refused : OperandFields.fit { b := 256 } = false := by decide
theorem test_wide_w_refused : OperandFields.fit { w := 65536 } = false := by decide
theorem test_widest_operands_fit :
    OperandFields.fit { k := 7, phi := 7, plo := 7, sel := 3, b := 255, w := 65535 } = true := by
  decide

/-! ### Decoding: a word for every constructor, bit by bit from R70 and R72
(fields from the top: w, b, sel, plo, phi, k, op) -/

theorem test_decode_nop :
    decodeRequest 0b1111111111111111_11111111_11_111_111_111_00000 = .nop := by decide
theorem test_decode_fset :
    decodeRequest 0b0000000000000000_00000000_00_000_000_011_00001 = .fset 3 := by decide
theorem test_decode_fclr :
    decodeRequest 0b1111111111111111_11111111_11_111_111_100_00010 = .fclr 4 := by decide
theorem test_decode_fget :
    decodeRequest 0b0000000000000000_00000000_00_000_000_110_00011 = .fget 6 := by decide
theorem test_decode_fput :
    decodeRequest 0b0000000000000000_10000001_00_000_000_001_00100 = .fput 1 0x81 := by decide
theorem test_decode_fclrall :
    decodeRequest 0b0000000000000000_00000000_00_000_000_000_00101 = .fclrall := by decide
theorem test_decode_fiter :
    decodeRequest 0b0000000000000000_00000000_00_000_000_000_00110 = .fiter := by decide
theorem test_decode_fpar :
    decodeRequest 0b0000000000000000_10101010_00_000_000_000_00111 = .fpar 0xAA := by decide
theorem test_decode_fzero :
    decodeRequest 0b0000000000000000_00000101_00_000_000_000_01000 = .fzero 0x05 := by decide
theorem test_decode_fsign :
    decodeRequest 0b0000000000000000_10000000_00_000_000_000_01001 = .fsign 0x80 := by decide
theorem test_decode_rget :
    decodeRequest 0b0000000000000000_00000000_00_000_000_101_10000 = .rget 5 := by decide
theorem test_decode_rput :
    decodeRequest 0b0000000000000000_00100000_00_000_000_100_10001 = .rput 4 0x20 := by decide
theorem test_decode_paddr :
    decodeRequest 0b0000000000000000_00000000_00_000_000_010_10010 = .paddr 2 := by decide
theorem test_decode_pget :
    decodeRequest 0b0000000000000000_00000000_00_101_100_000_10011 = .pget 4 5 := by decide
theorem test_decode_pput :
    decodeRequest 0b0001001000110100_00000000_00_110_001_000_10100 = .pput 1 6 0x1234 := by decide
theorem test_decode_ropc :
    decodeRequest 0b0000000000000000_01111110_00_000_000_011_10101 = .ropc 0x7E 3 := by decide
theorem test_decode_psel :
    decodeRequest 0b0000000000000000_00000000_10_000_000_000_10110 = .psel 2 := by decide
theorem test_decode_reserved0A :
    decodeRequest 0b0000000000000000_00000000_00_000_000_000_01010 = .reserved0A := by decide
theorem test_decode_reserved0B :
    decodeRequest 0b0000000000000000_00000000_00_000_000_000_01011 = .reserved0B := by decide
theorem test_decode_reserved0C :
    decodeRequest 0b0000000000000000_00000000_00_000_000_000_01100 = .reserved0C := by decide
theorem test_decode_reserved0D :
    decodeRequest 0b0000000000000000_00000000_00_000_000_000_01101 = .reserved0D := by decide
theorem test_decode_reserved0E :
    decodeRequest 0b0000000000000000_00000000_00_000_000_000_01110 = .reserved0E := by decide
theorem test_decode_reserved0F :
    decodeRequest 0b0000000000000000_00000000_00_000_000_000_01111 = .reserved0F := by decide
theorem test_decode_reserved17 :
    decodeRequest 0b0000000000000000_00000000_00_000_000_000_10111 = .reserved17 := by decide
theorem test_decode_reserved18 :
    decodeRequest 0b0000000000000000_00000000_00_000_000_000_11000 = .reserved18 := by decide
theorem test_decode_reserved19 :
    decodeRequest 0b0000000000000000_00000000_00_000_000_000_11001 = .reserved19 := by decide
theorem test_decode_reserved1A :
    decodeRequest 0b0000000000000000_00000000_00_000_000_000_11010 = .reserved1A := by decide
theorem test_decode_reserved1B :
    decodeRequest 0b0000000000000000_00000000_00_000_000_000_11011 = .reserved1B := by decide
theorem test_decode_reserved1C :
    decodeRequest 0b0000000000000000_00000000_00_000_000_000_11100 = .reserved1C := by decide
theorem test_decode_reserved1D :
    decodeRequest 0b0000000000000000_00000000_00_000_000_000_11101 = .reserved1D := by decide
theorem test_decode_reserved1E :
    decodeRequest 0b0000000000000000_00000000_00_000_000_000_11110 = .reserved1E := by decide
theorem test_decode_reserved1F :
    decodeRequest 0b0000000000000000_00000000_00_000_000_000_11111 = .reserved1F := by decide
theorem test_decode_wide_number_rejected :
    (decodeNumber 0x10000000000).toOption = none := by decide
theorem test_decodeTableWord_narrow : decodeTableWord 8 0xE1 = some (.fset 7) := by decide
theorem test_decodeTableWord_pput :
    decodeTableWord 40 0x1234002C14 = some (.pput 4 5 0x1234) := by decide
theorem test_encode_pput : encode (.pput 4 5 0x1234) = 0x1234002C14 := by decide
theorem test_encode_ropc : encode (.ropc 0x7E 3) = 0x00007E0075 := by decide

/-! ### One cycle of each command, the expected results from the vectors -/

/-- V-C1. -/
theorem test_nop : answers (step (probe.present { rst := false, req := 0xFFFFFFFFE0 })) probe 0 := by
  decide
/-- V-F1: AC is bit 3. -/
theorem test_fset_ac : nextIs (exec (.fset 3) probe) { probe with f := 0x0A } := by decide
/-- V-F1. -/
theorem test_fset_one : answers (exec (.fset 1) probe) probe 0x0800000000 := by decide
/-- V-F1. -/
theorem test_fclr_z : nextIs (exec (.fclr 6) allSet) { allSet with f := 0x8F } := by decide
/-- V-F1. -/
theorem test_fclr_one : answers (exec (.fclr 1) allSet) allSet 0x0800000000 := by decide
/-- The example of R103. -/
theorem test_fget_z :
    answers (exec (.fget 6) { probe with f := 0x42 }) { probe with f := 0x42 } 0x01 := by decide
/-- V-F2. -/
theorem test_fget_one : answers (exec (.fget 1) allSet) allSet 0x1000000000 := by decide
/-- V-F3. -/
theorem test_fput_clears : nextIs (exec (.fput 7 0) allSet) { allSet with f := 0x4F } := by decide
/-- V-F3: with a bad key and a bad value the key is reported. -/
theorem test_fput_bad_key_first : answers (exec (.fput 4 9) probe) probe 0x1000000000 := by decide
/-- V-F3. -/
theorem test_fput_bad_value : answers (exec (.fput 0 0xFF) probe) probe 0x2800000000 := by decide
/-- V-F4. -/
theorem test_fclrall : nextIs (exec .fclrall allSet) { allSet with f := 0x02 } := by decide
/-- V-F4: 0x47 reads 0b01011. -/
theorem test_fiter :
    nextIs (exec .fiter { probe with f := 0x47 })
      { probe with f := 0x47, response := { fseq := 0b01011 } } := by decide
/-- V-F5. -/
theorem test_fpar_even : nextIs (exec (.fpar 0xAA) probe) { probe with f := 0x06 } := by decide
/-- V-F5. -/
theorem test_fpar_odd : nextIs (exec (.fpar 0xFE) allSet) { allSet with f := 0xCB } := by decide
/-- V-F5. -/
theorem test_fzero_zero : nextIs (exec (.fzero 0) probe) { probe with f := 0x42 } := by decide
/-- V-F5. -/
theorem test_fzero_nonzero : nextIs (exec (.fzero 0x80) allSet) { allSet with f := 0x8F } := by decide
/-- V-F5. -/
theorem test_fsign_set : nextIs (exec (.fsign 0x80) probe) { probe with f := 0x82 } := by decide
/-- V-F5. -/
theorem test_fsign_clear : nextIs (exec (.fsign 0x7F) allSet) { allSet with f := 0x4F } := by decide
/-- V-R1. -/
theorem test_rget_a : answers (exec (.rget 7) probe) probe 0x77 := by decide
/-- V-R1. -/
theorem test_rget_m : answers (exec (.rget 6) probe) probe 0x1800000000 := by decide
/-- V-R1. -/
theorem test_rput_l :
    nextIs (exec (.rput 5 0xA5) probe) { probe with cells := { probe.cells with l := 0xA5 } } := by
  decide
/-- V-R1. -/
theorem test_rput_m : answers (exec (.rput 6 0xA5) probe) probe 0x1800000000 := by decide
/-- V-R2: code 2 is DE. -/
theorem test_paddr_d : answers (exec (.paddr 2) probe) probe 0x334400 := by decide
/-- V-R2. -/
theorem test_paddr_c : answers (exec (.paddr 1) probe) probe 0x2000000000 := by decide
/-- V-R3. -/
theorem test_pget_ab : answers (exec (.pget 7 0) probe) probe 0x771100 := by decide
/-- V-R3. -/
theorem test_pget_hm : answers (exec (.pget 4 6) probe) probe 0x1800000000 := by decide
/-- V-R4: the low byte is kept. -/
theorem test_pput_aa :
    nextIs (exec (.pput 7 7 0xBEEF) probe) { probe with cells := { probe.cells with a := 0xEF } } := by
  decide
/-- V-R4: no partial write. -/
theorem test_pput_bm : answers (exec (.pput 0 6 0x1234) probe) probe 0x1800000000 := by decide
/-- V-R5. -/
theorem test_ropc_partial : answers (exec (.ropc 0x80 6) probe) probe 0x02 := by decide
/-- V-R5. -/
theorem test_ropc_middle : answers (exec (.ropc 0xC5 4) probe) probe 0x04 := by decide
/-- V-R6, and the response word of S10. -/
theorem test_psel_hl : answers (exec (.psel 2) probe) probe 0x002C000000 := by decide
/-- V-R6. -/
theorem test_psel_three : answers (exec (.psel 3) probe) probe 0x2000000000 := by decide
theorem test_reserved0A :
    answers (step (probe.present { rst := false, req := 0xFFFFFFFFEA })) probe 0x3800000000 := by decide
theorem test_reserved0B :
    answers (step (probe.present { rst := false, req := 0x000000000B })) probe 0x3800000000 := by decide
theorem test_reserved0C :
    answers (step (probe.present { rst := false, req := 0x000000000C })) probe 0x3800000000 := by decide
theorem test_reserved0D :
    answers (step (probe.present { rst := false, req := 0x000000000D })) probe 0x3800000000 := by decide
theorem test_reserved0E :
    answers (step (probe.present { rst := false, req := 0x000000000E })) probe 0x3800000000 := by decide
theorem test_reserved0F :
    answers (step (probe.present { rst := false, req := 0xFFFFFFFFEF })) probe 0x3800000000 := by decide
theorem test_reserved17 :
    answers (step (probe.present { rst := false, req := 0xFFFFFFFFF7 })) probe 0x3800000000 := by decide
theorem test_reserved18 :
    answers (step (probe.present { rst := false, req := 0x0000000018 })) probe 0x3800000000 := by decide
theorem test_reserved19 :
    answers (step (probe.present { rst := false, req := 0x0000000019 })) probe 0x3800000000 := by decide
theorem test_reserved1A :
    answers (step (probe.present { rst := false, req := 0x000000001A })) probe 0x3800000000 := by decide
theorem test_reserved1B :
    answers (step (probe.present { rst := false, req := 0x000000001B })) probe 0x3800000000 := by decide
theorem test_reserved1C :
    answers (step (probe.present { rst := false, req := 0x000000001C })) probe 0x3800000000 := by decide
theorem test_reserved1D :
    answers (step (probe.present { rst := false, req := 0x000000001D })) probe 0x3800000000 := by decide
theorem test_reserved1E :
    answers (step (probe.present { rst := false, req := 0x000000001E })) probe 0x3800000000 := by decide
theorem test_reserved1F :
    answers (step (probe.present { rst := false, req := 0xFFFFFFFFFF })) probe 0x3800000000 := by decide
/-- V-C1: reset overrides the command of its cycle. -/
theorem test_reset_wins :
    nextIs (step (probe.present { rst := true, req := 0x00001200F1 })) State.reset := by decide
/-- The first cycle after reset runs the word placed for it. -/
theorem test_withFetchWord :
    nextIs (step (State.reset.withFetchWord 24 0x20_00_91))
      { State.reset with cells := { State.reset.cells with h := 0x20 } } := by decide

/-! ### The assembler syntax (R83, R84) -/

theorem test_assemble_descriptor :
    Assembler.assemble (String.ofList
      ("PPUT ".toList ++ [Char.ofNat 123] ++ "B,M".toList ++ [Char.ofNat 125] ++ ", 0x1234".toList)) = some (.pput 0 6 0x1234) := by decide
theorem test_assemble_number_key : Assembler.assemble "FSET 1" = some (.fset 1) := by decide
theorem test_assemble_wide_key_refused : Assembler.assemble "FSET 8" = none := by decide
theorem test_assemble_missing_operand_refused : Assembler.assemble "RPUT H" = none := by decide

/-! ### Witnesses: states and operands that meet the hypotheses of the statements -/

/-- A state in which the engine presents `w` next, with `rst` as given. -/
def presenting (rst : Bool) (w : RequestWord) : State :=
  { probe with requests := [{ rst := rst, req := w }] }

theorem witness_ResetEdgeWinsOverTheRequest :
    (presenting true 0x00001200F1).requests = { rst := true, req := 0x00001200F1 } :: [] := rfl

theorem witness_BootFromUnknownStateReachesReset : [(0xFFFFFFFFFF : RequestWord)] ≠ [] := by decide

theorem witness_StepRunsThePresentedCommand :
    (presenting false 0x00000000E1).requests = { rst := false, req := 0x00000000E1 } :: [] ∧
      probe.requests = [] := ⟨rfl, rfl⟩

theorem witness_UnusedFieldsAreIgnored :
    (0x0000000001 : RequestWord) &&& Claims.usedBits 0x01 =
      0xFFFFFFFF01 &&& Claims.usedBits 0x01 := by decide

/-- The words that meet the decoding clauses of the statements about single commands, one a number. -/
theorem witness_command_numbers :
    ∀ n ∈ [0x00, 0x01, 0x02, 0x03, 0x04, 0x05, 0x06, 0x07, 0x08, 0x09, 0x10, 0x11, 0x12, 0x13, 0x14,
      0x15, 0x16], (BitVec.ofNat 40 (0xFFFFFFFFE0 + n)).extractLsb' 0 5 = BitVec.ofNat 5 n := by
  decide

/-- FSET, FCLR, FGET, R100: the keys at the ends of the two ranges. -/
theorem witness_keys :
    (0 : Code) ∈ Claims.flagKeys ∧ (7 : Code) ∈ Claims.flagKeys ∧
      (1 : Code) ∈ Claims.otherKeys ∧ (5 : Code) ∈ Claims.otherKeys ∧
      (1 : Code) ∉ Claims.flagKeys ∧ (5 : Code) ∉ Claims.flagKeys := by decide

/-- No key falls under two clauses, and each falls under one. -/
theorem witness_keys_apart :
    ∀ k : Code, (k ∈ Claims.flagKeys) ≠ (k ∈ Claims.otherKeys) := by decide

theorem witness_FputWritesZeroOrOne :
    ((7 : Code) ∈ Claims.flagKeys ∧ (1 : Byte).toNat ≤ 1) ∧
      ((0 : Code) ∈ Claims.flagKeys ∧ 2 ≤ (2 : Byte).toNat) ∧
      ((7 : Code) ∈ Claims.flagKeys ∧ 2 ≤ (0xFF : Byte).toNat) := by decide

theorem witness_FclrallClearsTheFiveFlags :
    allSet.f.getLsbD 1 = true ∧ allSet.f.getLsbD 4 = false ∧ allSet.f.getLsbD 5 = false := by decide

/-- Every command answers a next state, so the premise `exec i s = .next t` is met by each; here one of
each combinator. -/
theorem witness_CombinatorsWriteTheirOwnFlagInAnyOrder :
    (∃ t, exec (.fpar 0xFF) probe = .next t) ∧ (∃ t, exec (.fzero 0) probe = .next t) ∧
      (∃ t, exec (.fsign 0x80) probe = .next t) := ⟨⟨_, rfl⟩, ⟨_, rfl⟩, ⟨_, rfl⟩⟩

/-- RGET, RPUT, PGET, PPUT: storage codes at the ends of the range, and the code with no cell. -/
theorem witness_cells :
    ((0 : Code), (0x11 : Byte)) ∈ Claims.cellsByCode probe.cells ∧
      ((7 : Code), (0x77 : Byte)) ∈ Claims.cellsByCode probe.cells ∧
      (5 : Code) ≠ 6 ∧ (7 : Code) ≠ 6 ∧ ((6 : Code) = 6 ∨ (5 : Code) = 6) ∧
      ((0 : Code) = 6 ∨ (6 : Code) = 6) := by decide

/-- RPUT, PPUT: a cell's code stands in the table before and after the write. -/
theorem witness_cell_before_and_after :
    ((4 : Code), (0x55 : Byte)) ∈ Claims.cellsByCode probe.cells ∧
      ((4 : Code), (0xA5 : Byte)) ∈ Claims.cellsByCode { probe.cells with h := 0xA5 } := by decide

theorem witness_PaddrFormsTheAddressOfAPair :
    (1 : Code) ∈ [(1 : Code), 3, 5, 6, 7] ∧ (7 : Code) ∈ [(1 : Code), 3, 5, 6, 7] := by decide

/-- The reserved numbers at the ends of the two ranges. -/
theorem witness_ReservedNumbersRaiseIllegalCommand :
    (0x0A ≤ (0xFFFFFFFFEA : RequestWord).toNat % 32 ∧ (0xFFFFFFFFEA : RequestWord).toNat % 32 ≤ 0x0F) ∧
      (0x0A ≤ (0x0F : RequestWord).toNat % 32 ∧ (0x0F : RequestWord).toNat % 32 ≤ 0x0F) ∧
      0x17 ≤ (0x17 : RequestWord).toNat % 32 ∧ 0x17 ≤ (0xFFFFFFFFFF : RequestWord).toNat % 32 := by
  decide

/-- ErrorsExactlyWhenTheRulesSay, TypeMismatchIsNeverProduced, ResponseWordHasTheFieldsOfItsTable,
CodeSixHasNoCell: a command that errs and one that does not, and a cycle. -/
theorem witness_next_states :
    (∃ t, exec (.fset 1) probe = .next t ∧ t.response.err = some .invalidFlag) ∧
      (∃ t, exec (.rget 7) probe = .next t ∧ t.response.r8 ≠ 0) ∧
      (∃ t, exec (.paddr 0) probe = .next t ∧ t.response.r16 ≠ 0) ∧
      (∃ t, exec (.psel 0) probe = .next t ∧ (t.response.dhi ≠ 0 ∨ t.response.dlo ≠ 0)) ∧
      (∃ t, exec .fiter allSet = .next t ∧ t.response.fseq ≠ 0) ∧
      (∃ t, step probe = .next t) :=
  ⟨⟨_, rfl, rfl⟩, ⟨_, rfl, by decide⟩, ⟨_, rfl, by decide⟩, ⟨_, rfl, by decide⟩, ⟨_, rfl, by decide⟩,
    ⟨_, rfl⟩⟩

/-- A cycle with a command and a reset cycle, from states that meet the invariant. -/
theorem witness_StepKeepsTheInvariant :
    allSet.inv = true ∧ (∃ t, step (presenting false 0x00000000E2) = .next t) ∧
      (presenting false 0x00000000E2).inv = true ∧ (∃ t, step (presenting true 0) = .next t) :=
  ⟨by decide, ⟨_, rfl⟩, by decide, ⟨_, rfl⟩⟩

theorem witness_NoCommandWritesTheFixedBits :
    (∃ t, exec (.fput 3 1) probe = .next t) ∧ (∃ t, exec (.fset 4) probe = .next t) ∧
      (∃ t, exec .fclrall allSet = .next t) ∧ (∃ t, exec (.fsign 0) allSet = .next t) ∧
      (0 ≠ (3 : Code).toNat ∨ (3 : Code) ∉ Claims.flagKeys) ∧
      (4 ≠ (4 : Code).toNat ∨ (4 : Code) ∉ Claims.flagKeys) ∧
      (∃ t, Host.Core.run Sys2Proof.core 2
        { State.reset with requests := [{ rst := false, req := 0x00000000E1 }] } = .next t) :=
  ⟨⟨_, rfl⟩, ⟨_, rfl⟩, ⟨_, rfl⟩, ⟨_, rfl⟩, by decide, by decide, ⟨_, rfl⟩⟩

theorem witness_ThePartsDoNotTouchEachOther :
    (∃ t, exec (.fset 0) probe = .next t) ∧ (encode (.fset 0)).getLsbD 4 = false ∧
      (∃ t, exec (.rput 0 1) probe = .next t) ∧ (encode (.rput 0 1)).getLsbD 4 = true :=
  ⟨⟨_, rfl⟩, by decide, ⟨_, rfl⟩, by decide⟩

theorem witness_HiddenBitsNeverReachTheResponse :
    (∃ t, exec (.fget 0) probe = .next t) ∧ (∃ t, exec (.fget 0) { probe with f := 0x30 } = .next t) ∧
      (∀ n ∈ [0, 2, 3, 6, 7], (0x30 : Byte).getLsbD n = probe.f.getLsbD n) ∧
      (∃ t, exec .nop { probe with f := 0xCF } = .next t) ∧
      (∀ k, Instr.nop ≠ .fget k) ∧ Instr.nop ≠ .fiter :=
  ⟨⟨_, rfl⟩, ⟨_, rfl⟩, by decide, ⟨_, rfl⟩, fun _ => Instr.noConfusion, by decide⟩

theorem witness_ReadCommandsHaveNoSideEffect :
    Instr.psel 3 ∈ [.fget 0, .fiter, .rget 0, .paddr 0, .pget 0 7, .ropc 0 0, .psel 3] := by decide

theorem witness_FlagSetOrClearedIsReadBack :
    (0 : Code) ∈ Claims.flagKeys ∧ (7 : Code) ∈ Claims.flagKeys ∧ (1 : Byte).toNat ≤ 1 ∧
      (Instr.fclr 0, (0x00 : Byte)) ∈
        [(Instr.fset 0, (0x01 : Byte)), (.fclr 0, 0x00), (.fput 0 1, 1)] ∧ (7 : Code) ≠ 0 := by decide

theorem witness_PairViewsAliasTheCells :
    ((0 : Code), (1 : Code)) ∈ [((0 : Code), (1 : Code)), (2, 3), (4, 5)] ∧
      ((1 : Code), (0x22 : Byte)) ∈ Claims.cellsByCode probe.cells ∧
      ((4 : Code), (5 : Code)) ∈ [((0 : Code), (1 : Code)), (2, 3), (4, 5)] ∧
      ((5 : Code), (0x66 : Byte)) ∈ Claims.cellsByCode probe.cells := by decide

theorem witness_SelectedPairIsTheAddressPair : (0 : Selector) ≠ 3 ∧ (2 : Selector) ≠ 3 := by decide

theorem witness_LaterPendingWriteIsCommitted :
    (∀ v', PendingWrite.flag .s v' ∉ [PendingWrite.flag .z true]) ∧
      (∀ v', PendingWrite.cell .a v' ∉ [PendingWrite.cell .b 0]) := by
  constructor <;> intro v' <;> simp

theorem witness_CommandsTakeEffectInOrder :
    ({ probe with requests := [{ rst := false, req := encode (.rput 4 0x20) },
                    { rst := false, req := encode (.paddr 4) }] } : State).requests =
      { rst := false, req := encode (.rput 4 0x20) } ::
        { rst := false, req := encode (.paddr 4) } :: [] := rfl

theorem witness_FlagCommandsFrame :
    (∃ t, exec (.fput 7 1) probe = .next t) ∧ 0 ∉ [(7 : Code).toNat] ∧ 1 ∉ [0, 2, 3, 6, 7] :=
  ⟨⟨_, rfl⟩, by decide, by decide⟩

theorem witness_RegisterFileCommandsFrame :
    (∃ t, exec (.pput 0 7 0x1234) probe = .next t) ∧ (1 : Code) ∉ [(0 : Code), 7] ∧
      ((1 : Code), (0x22 : Byte)) ∈ Claims.cellsByCode probe.cells :=
  ⟨⟨_, rfl⟩, by decide, by decide⟩

theorem witness_CodeSixHasNoCell :
    (∃ t, exec .nop probe = .next t) ∧ (∀ k b, Instr.nop ≠ .rput k b) ∧
      (∀ phi plo w, Instr.nop ≠ .pput phi plo w) ∧ (∀ k, Instr.nop ≠ .rget k) ∧
      (∀ k, Instr.nop ≠ .paddr k) ∧ (∀ phi plo, Instr.nop ≠ .pget phi plo) ∧
      (∃ t, exec (.paddr 4) { probe with cells := { probe.cells with a := 0 } } = .next t) :=
  ⟨⟨_, rfl⟩, fun _ _ => Instr.noConfusion, fun _ _ _ => Instr.noConfusion,
    fun _ => Instr.noConfusion, fun _ => Instr.noConfusion, fun _ _ => Instr.noConfusion, ⟨_, rfl⟩⟩

end Sys2Proof.Tests
end

/-! SUPPORT. What the commit of a list of pending writes does to one flag, one cell and one part of
the state (`spec/00_scope.md` R18). -/

namespace Sys2Proof.Machine

/-- The commit of two lists one after the other. -/
theorem State.commit_append (s : State) (ws ws' : List PendingWrite) :
    s.commit (ws ++ ws') = (s.commit ws).commit ws' :=
  List.foldl_append

/-- A flag that no pending write names is as it was. -/
theorem State.readFlag_commit_of_not_mem (s : State) {ws : List PendingWrite} {fl : Flag}
    (h : ∀ v, PendingWrite.flag fl v ∉ ws) :
    readFlag (s.commit ws).f fl = readFlag s.f fl := by
  refine State.commit_f_bit s ws fl.bit fun fl' v hm hbit => ?_
  obtain rfl := Flag.bit_inj.mp hbit
  exact h v hm

/-- A cell that no pending write names is as it was. -/
theorem State.read_commit_of_not_mem (s : State) {ws : List PendingWrite} {r : Reg}
    (h : ∀ v, PendingWrite.cell r v ∉ ws) :
    (s.commit ws).cells.read r = s.cells.read r := by
  induction ws generalizing s with
  | nil => rfl
  | cons p ws ih =>
    rw [State.commit_cons, ih _ fun v hm => h v (List.mem_cons_of_mem _ hm)]
    cases p with
    | flag fl v => rfl
    | cell r' v =>
      have hne : r ≠ r' := fun e => h v (e ▸ List.mem_cons_self)
      rw [State.apply_cell_cells, Cells.read_write, if_neg hne]

/-- No flag stands at bit 1, 4 or 5 (R20 to R23). -/
theorem Flag.ne_bit_of_fixed (fl : Flag) : ∀ n ∈ [1, 4, 5], n ≠ fl.bit := by
  cases fl <;> decide

/-- The commit leaves bits 1, 4 and 5 of `F` (R110). -/
theorem State.commit_f_fixed (s : State) (ws : List PendingWrite) :
    ∀ n ∈ [1, 4, 5], (s.commit ws).f.getLsbD n = s.f.getLsbD n :=
  fun n hn => State.commit_f_bit s ws n fun fl _ _ => fl.ne_bit_of_fixed n hn

/-- The pending write names a flag, and not a cell. -/
@[simp] def PendingWrite.isFlag : PendingWrite → Bool
  | .flag _ _ => true
  | .cell _ _ => false

/-- Pending writes that all name flags neither read nor write the cells. -/
theorem State.commit_withCells (s : State) {ws : List PendingWrite}
    (h : ∀ p ∈ ws, p.isFlag = true) (c : Cells) :
    { s with cells := c }.commit ws = { s.commit ws with cells := c } := by
  induction ws generalizing s with
  | nil => rfl
  | cons p ws ih =>
    obtain ⟨hp, hws⟩ := List.forall_mem_cons.mp h
    rw [State.commit_cons, State.commit_cons, ← ih _ hws]
    cases p with
    | flag fl v => rfl
    | cell r v => cases hp

/-- Pending writes that all name cells neither read nor write `F`. -/
theorem State.commit_withF (s : State) {ws : List PendingWrite}
    (h : ∀ p ∈ ws, p.isFlag = false) (f : Byte) :
    { s with f := f }.commit ws = { s.commit ws with f := f } := by
  induction ws generalizing s with
  | nil => rfl
  | cons p ws ih =>
    obtain ⟨hp, hws⟩ := List.forall_mem_cons.mp h
    rw [State.commit_cons, State.commit_cons, ← ih _ hws]
    cases p with
    | flag fl v => cases hp
    | cell r v => rfl

end Sys2Proof.Machine

/-! SUPPORT. The two parts of the command set (`spec/00_scope.md` R2): what a command of each part
is as a function of the whole state. -/

namespace Sys2Proof.Machine

/-- Bit 4 of a command's request word, its `op[4]`, is bit 4 of its command number (R70). -/
theorem getLsbD_encode_four (i : Instr) : (encode i).getLsbD 4 = i.opNumber.testBit 4 := by
  simp only [encode, Laws.getLsbD_packRequest, BitVec.getLsbD_ofNat, Nat.reduceLT, if_true,
    decide_true, Bool.true_and]

/-- A command of the flag part raises one and the same error in every state, or commits the same
flag writes in every state with a response that is a function of `F`. -/
theorem exec_flagPart (i : Instr) (hop : (encode i).getLsbD 4 = false) :
    (∃ e, ∀ s, exec i s = raise e s) ∨
      ∃ (ws : List PendingWrite) (r : Byte → Response),
        (∀ s, exec i s = finish ws (r s.f) s) ∧ ∀ p ∈ ws, p.isFlag = true := by
  rw [getLsbD_encode_four] at hop
  cases i <;> simp only [exec]
  case fset k =>
    unfold execFset
    cases flagOfKey? k
    exacts [.inl ⟨_, fun _ => rfl⟩, .inr ⟨_, fun _ => {}, fun _ => rfl, by simp⟩]
  case fclr k =>
    unfold execFclr
    cases flagOfKey? k
    exacts [.inl ⟨_, fun _ => rfl⟩, .inr ⟨_, fun _ => {}, fun _ => rfl, by simp⟩]
  case fget k =>
    unfold execFget
    cases flagOfKey? k with
    | none => exact .inl ⟨_, fun _ => rfl⟩
    | some fl =>
      exact .inr ⟨[], fun f => { r8 := (BitVec.ofBool (readFlag f fl)).setWidth 8 },
        fun _ => rfl, by simp⟩
  case fput k b =>
    unfold execFput
    cases flagOfKey? k with
    | none => exact .inl ⟨_, fun _ => rfl⟩
    | some fl =>
      by_cases hb : 1 < b.toNat
      · exact .inl ⟨_, fun _ => if_pos hb⟩
      · exact .inr ⟨_, fun _ => {}, fun _ => if_neg hb, by simp⟩
  case nop => exact .inr ⟨[], fun _ => {}, fun _ => rfl, by simp⟩
  case fiter =>
    exact .inr ⟨[], fun f => { fseq := flagSequence f }, fun _ => rfl, by simp⟩
  case fclrall | fpar b | fzero b | fsign b =>
    exact .inr ⟨_, fun _ => {}, fun _ => rfl, by simp⟩
  case rget | rput | paddr | pget | pput | ropc | psel =>
    simp [Instr.opNumber, Nat.testBit] at hop
  all_goals exact .inl ⟨.illegalCommand, fun _ => rfl⟩

/-- A command of the register part raises one and the same error in every state, or commits the same
cell writes in every state with a response that is a function of the cells. -/
theorem exec_registerPart (i : Instr) (hop : (encode i).getLsbD 4 = true) :
    (∃ e, ∀ s, exec i s = raise e s) ∨
      ∃ (ws : List PendingWrite) (r : Cells → Response),
        (∀ s, exec i s = finish ws (r s.cells) s) ∧ ∀ p ∈ ws, p.isFlag = false := by
  rw [getLsbD_encode_four] at hop
  cases i <;> simp only [exec]
  case rget k =>
    unfold execRget
    cases storageReg? k with
    | none => exact .inl ⟨_, fun _ => rfl⟩
    | some r => exact .inr ⟨[], fun c => { r8 := c.read r }, fun _ => rfl, by simp⟩
  case rput k b =>
    unfold execRput
    cases storageReg? k
    exacts [.inl ⟨_, fun _ => rfl⟩, .inr ⟨_, fun _ => {}, fun _ => rfl, by simp⟩]
  case paddr k =>
    unfold execPaddr
    cases pairOfAddrCode? k with
    | none => exact .inl ⟨_, fun _ => rfl⟩
    | some p => exact .inr ⟨[], fun c => { r16 := c.pair p }, fun _ => rfl, by simp⟩
  case pget phi plo =>
    unfold execPget
    cases pairOfCodes? phi plo with
    | none => exact .inl ⟨_, fun _ => rfl⟩
    | some p => exact .inr ⟨[], fun c => { r16 := c.pair p }, fun _ => rfl, by simp⟩
  case pput phi plo w =>
    unfold execPput
    cases pairOfCodes? phi plo
    exacts [.inl ⟨_, fun _ => rfl⟩,
      .inr ⟨_, fun _ => {}, fun _ => rfl, by simp [pairWrites]⟩]
  case ropc b k =>
    exact .inr ⟨[], fun _ => { r8 := opcodeField b k }, fun _ => rfl, by simp⟩
  case psel sel =>
    unfold execPsel
    cases pairOfSel? sel with
    | none => exact .inl ⟨_, fun _ => rfl⟩
    | some p =>
      exact .inr ⟨[], fun _ => { dhi := p.hi.code, dlo := p.lo.code }, fun _ => rfl, by simp⟩
  case nop | fset | fclr | fget | fput | fclrall | fiter | fpar | fzero | fsign =>
    simp [Instr.opNumber, Nat.testBit] at hop
  all_goals exact .inl ⟨.illegalCommand, fun _ => rfl⟩

/-- A command of the flag part neither reads nor writes the cells. -/
theorem exec_withCells {i : Instr} {s t : State} (hop : (encode i).getLsbD 4 = false)
    (h : exec i s = .next t) (c : Cells) :
    exec i { s with cells := c } = .next { t with cells := c } := by
  rcases exec_flagPart i hop with ⟨e, hx⟩ | ⟨ws, r, hx, hws⟩
  · rw [hx, raise_eq] at h
    obtain rfl := Host.Outcome.next.inj h
    rw [hx, raise_eq]
  · rw [hx, finish_eq] at h
    obtain rfl := Host.Outcome.next.inj h
    rw [hx, finish_eq, State.commit_withCells s hws]

/-- A command of the register part neither reads nor writes `F`. -/
theorem exec_withF {i : Instr} {s t : State} (hop : (encode i).getLsbD 4 = true)
    (h : exec i s = .next t) (f : Byte) :
    exec i { s with f := f } = .next { t with f := f } := by
  rcases exec_registerPart i hop with ⟨e, hx⟩ | ⟨ws, r, hx, hws⟩
  · rw [hx, raise_eq] at h
    obtain rfl := Host.Outcome.next.inj h
    rw [hx, raise_eq]
  · rw [hx, finish_eq] at h
    obtain rfl := Host.Outcome.next.inj h
    rw [hx, finish_eq, State.commit_withF s hws]

end Sys2Proof.Machine

/-! The statements of `spec/00_scope.md`, settled. -/

namespace Sys2Proof.Proofs

open Sys2Proof.Machine

/-- Settles O36: what a command of one part writes and answers is made of that part's state alone
(`exec_flagPart`, `exec_registerPart`). -/
theorem thePartsDoNotTouchEachOther : Obligations.ThePartsDoNotTouchEachOther :=
  fun _ _ _ h => ⟨fun hop => exec_withCells hop h, fun hop => exec_withF hop h⟩

/-- Settles O43: the commit of the list is the commit of what precedes the write, then the write,
then later writes that do not name its flag or cell. -/
theorem laterPendingWriteIsCommitted : Obligations.LaterPendingWriteIsCommitted := by
  refine ⟨fun s ws ws' fl v h => ⟨?_, s.readFlag_commit_of_not_mem h⟩,
    fun s ws ws' r v h => ⟨?_, s.read_commit_of_not_mem h⟩,
    fun s ws => ⟨s.commit_f_fixed ws, s.commit_requests ws, s.commit_response ws⟩⟩
  · rw [State.commit_append, State.commit_cons, State.readFlag_commit_of_not_mem _ h,
      State.apply_flag_f, readFlag_writeFlag, if_pos rfl]
  · rw [State.commit_append, State.commit_cons, State.read_commit_of_not_mem _ h,
      State.apply_cell_cells, Cells.read_write, if_pos rfl]

end Sys2Proof.Proofs

/-! SUPPORT. The cells by their codes, and the two numberings of the pairs (`spec/10_state.md` R26, R33,
R34). -/

namespace Sys2Proof.Machine

/-- The statements' table of the cells is the cells by the codes of their registers. -/
theorem mem_cellsByCode (c : Cells) (j : Code) (v : Byte) :
    (j, v) ∈ Claims.cellsByCode c ↔ ∃ r : Reg, j = r.code ∧ v = c.read r := by
  constructor
  · intro h
    simp only [Claims.cellsByCode, List.mem_cons, Prod.mk.injEq, List.not_mem_nil, or_false] at h
    rcases h with ⟨rfl, rfl⟩ | ⟨rfl, rfl⟩ | ⟨rfl, rfl⟩ | ⟨rfl, rfl⟩ | ⟨rfl, rfl⟩ | ⟨rfl, rfl⟩ |
      ⟨rfl, rfl⟩
    exacts [⟨.b, rfl, rfl⟩, ⟨.c, rfl, rfl⟩, ⟨.d, rfl, rfl⟩, ⟨.e, rfl, rfl⟩, ⟨.h, rfl, rfl⟩,
      ⟨.l, rfl, rfl⟩, ⟨.a, rfl, rfl⟩]
  · rintro ⟨r, rfl, rfl⟩
    cases r <;> simp [Claims.cellsByCode, Reg.code, Cells.read]

/-- The pair a selector names has twice the selector as its address-pair code (R33, R34). -/
theorem pairOfAddrCode?_two_mul (sel : Selector) :
    pairOfAddrCode? (BitVec.ofNat 3 (2 * sel.toNat)) = pairOfSel? sel := by
  revert sel
  decide

/-- The descriptor of two codes names the registers whose codes they are (R144, R145). -/
theorem pairOfCodes?_eq_some (phi plo : Code) (p : PairDesc) :
    pairOfCodes? phi plo = some p ↔ phi = p.hi.code ∧ plo = p.lo.code := by
  constructor
  · intro h
    have hne : ¬(phi = 6 ∨ plo = 6) := fun h6 => by
      simp [(pairOfCodes?_eq_none phi plo).mpr h6] at h
    obtain ⟨hphi, hplo⟩ := not_or.mp hne
    obtain ⟨hi, rfl⟩ := exists_reg_of_ne_six hphi
    obtain ⟨lo, rfl⟩ := exists_reg_of_ne_six hplo
    obtain rfl := Option.some.inj ((pairOfCodes?_code hi lo).symm.trans h)
    exact ⟨rfl, rfl⟩
  · rintro ⟨rfl, rfl⟩
    exact pairOfCodes?_code p.hi p.lo

end Sys2Proof.Machine

/-! SUPPORT. One description of every command: the writes it has pending, and what of `F` its response
can depend on (`spec/10_state.md` R21, R24, R26). -/

namespace Sys2Proof.Machine

/-- The write of `v` to the flag a key names; none for a key that names no flag. -/
def keyWrites (k : Code) (v : Bool) : List PendingWrite :=
  (flagOfKey? k).toList.map (.flag · v)

/-- The write of `v` to the cell a code names; none for code 6. -/
def codeWrites (k : Code) (v : Byte) : List PendingWrite :=
  (storageReg? k).toList.map (.cell · v)

/-- The two writes of `w` to the pair two codes give; none when one of them is code 6. -/
def codesWrites (phi plo : Code) (w : Word) : List PendingWrite :=
  (pairOfCodes? phi plo).toList.flatMap (pairWrites · w)

/-- The writes a command has pending unless it raises an error. They are the same in every state. -/
def pendingWritesOf : Instr → List PendingWrite
  | .fset k => keyWrites k true
  | .fclr k => keyWrites k false
  | .fput k b => keyWrites k (b.getLsbD 0)
  | .fclrall => Flag.all.map (.flag · false)
  | .fpar b => [.flag .p (parityFlag b)]
  | .fzero b => [.flag .z (zeroFlag b)]
  | .fsign b => [.flag .s false, .flag .s (neg b)]
  | .rput k b => codeWrites k b
  | .pput phi plo w => codesWrites phi plo w
  | _ => []

/-- A key's write names the flag at the key's bit. -/
theorem bit_eq_of_mem_keyWrites {k : Code} {v v' : Bool} {fl : Flag}
    (h : PendingWrite.flag fl v ∈ keyWrites k v') : fl.bit = k.toNat := by
  obtain ⟨fl', hk, hw⟩ := List.mem_map.mp h
  obtain ⟨rfl, -⟩ := PendingWrite.flag.inj hw
  exact ((flagOfKey?_eq_some k fl').mp (Option.mem_toList.mp hk)).symm

/-- A code's write names the cell of that code. -/
theorem code_eq_of_mem_codeWrites {k : Code} {v v' : Byte} {r : Reg}
    (h : PendingWrite.cell r v ∈ codeWrites k v') : r.code = k := by
  obtain ⟨r', hk, hw⟩ := List.mem_map.mp h
  obtain ⟨rfl, -⟩ := PendingWrite.cell.inj hw
  exact ((storageReg?_eq_some k r').mp (Option.mem_toList.mp hk)).symm

/-- The writes of two codes name the cells of those codes. -/
theorem code_mem_of_mem_codesWrites {phi plo : Code} {w : Word} {v : Byte} {r : Reg}
    (h : PendingWrite.cell r v ∈ codesWrites phi plo w) : r.code ∈ [phi, plo] := by
  obtain ⟨p, hp, hw⟩ := List.mem_flatMap.mp h
  obtain ⟨rfl, rfl⟩ := (pairOfCodes?_eq_some phi plo p).mp (Option.mem_toList.mp hp)
  simp only [pairWrites, List.mem_cons, PendingWrite.cell.injEq, List.not_mem_nil, or_false] at hw
  rcases hw with ⟨rfl, -⟩ | ⟨rfl, -⟩
  · exact List.mem_cons_self
  · exact List.mem_cons_of_mem _ List.mem_cons_self

/-- The commands whose response depends on `F`: FGET and FITER (R24). -/
def readsFlags : Instr → Bool
  | .fget _ | .fiter => true
  | _ => false

/-- A command other than FGET and FITER does not read `F`. -/
theorem readsFlags_eq_false {i : Instr} (hget : ∀ k, i ≠ .fget k) (hiter : i ≠ .fiter) :
    readsFlags i = false := by
  cases i
  case fget k => exact absurd rfl (hget k)
  case fiter => exact absurd rfl hiter
  all_goals rfl

/-- The response function `r` of the command `i` depends on no bit of `F` but the addressable flags,
and on none at all unless `i` is FGET or FITER. -/
def AnswersFromFlags (i : Instr) (r : State → Response) : Prop :=
  ∀ (s : State) (f : Byte), (readsFlags i = true → ∀ fl, readFlag f fl = readFlag s.f fl) →
    r { s with f := f } = r s

/-- The bits of the five flags (R21). -/
theorem Flag.bit_mem (fl : Flag) : fl.bit ∈ [0, 2, 3, 6, 7] := by
  cases fl <;> decide

/-- The sequence FITER reads is made of the five flags (R106). -/
theorem flagSequence_congr {f g : Byte} (h : ∀ fl, readFlag f fl = readFlag g fl) :
    flagSequence f = flagSequence g := by
  have hseq : ∀ x, flagSequence x =
      BitVec.ofBool (readFlag x .s) ++ BitVec.ofBool (readFlag x .z) ++
        BitVec.ofBool (readFlag x .ac) ++ BitVec.ofBool (readFlag x .p) ++
        BitVec.ofBool (readFlag x .cy) := fun _ => rfl
  simp only [hseq, h]

/-- A command raises one and the same error in every state, or commits its pending writes in every
state, with a response that depends on `F` through the flags at most. -/
theorem exec_uniform (i : Instr) :
    (∃ e, ∀ s, exec i s = raise e s) ∨
      ∃ r, AnswersFromFlags i r ∧ ∀ s, exec i s = finish (pendingWritesOf i) (r s) s := by
  cases i <;> simp only [exec]
  case fset k =>
    simp only [execFset, pendingWritesOf, keyWrites]
    cases flagOfKey? k
    exacts [.inl ⟨_, fun _ => rfl⟩, .inr ⟨_, fun _ _ _ => rfl, fun _ => rfl⟩]
  case fclr k =>
    simp only [execFclr, pendingWritesOf, keyWrites]
    cases flagOfKey? k
    exacts [.inl ⟨_, fun _ => rfl⟩, .inr ⟨_, fun _ _ _ => rfl, fun _ => rfl⟩]
  case fget k =>
    unfold execFget
    cases flagOfKey? k with
    | none => exact .inl ⟨_, fun _ => rfl⟩
    | some fl =>
      refine .inr ⟨fun s => { r8 := (BitVec.ofBool (readFlag s.f fl)).setWidth 8 }, ?_, fun _ => rfl⟩
      intro s f h
      simp only [h rfl fl]
  case fput k b =>
    simp only [execFput, pendingWritesOf, keyWrites]
    cases flagOfKey? k with
    | none => exact .inl ⟨_, fun _ => rfl⟩
    | some fl =>
      by_cases hb : 1 < b.toNat
      · exact .inl ⟨_, fun _ => if_pos hb⟩
      · exact .inr ⟨_, fun _ _ _ => rfl, fun _ => if_neg hb⟩
  case fiter =>
    refine .inr ⟨fun s => { fseq := flagSequence s.f }, ?_, fun _ => rfl⟩
    intro s f h
    simp only [flagSequence_congr (h rfl)]
  case rget k =>
    unfold execRget
    cases storageReg? k with
    | none => exact .inl ⟨_, fun _ => rfl⟩
    | some r => exact .inr ⟨fun s => { r8 := s.cells.read r }, fun _ _ _ => rfl, fun _ => rfl⟩
  case rput k b =>
    simp only [execRput, pendingWritesOf, codeWrites]
    cases storageReg? k
    exacts [.inl ⟨_, fun _ => rfl⟩, .inr ⟨_, fun _ _ _ => rfl, fun _ => rfl⟩]
  case paddr k =>
    unfold execPaddr
    cases pairOfAddrCode? k with
    | none => exact .inl ⟨_, fun _ => rfl⟩
    | some p => exact .inr ⟨fun s => { r16 := s.cells.pair p }, fun _ _ _ => rfl, fun _ => rfl⟩
  case pget phi plo =>
    unfold execPget
    cases pairOfCodes? phi plo with
    | none => exact .inl ⟨_, fun _ => rfl⟩
    | some p => exact .inr ⟨fun s => { r16 := s.cells.pair p }, fun _ _ _ => rfl, fun _ => rfl⟩
  case pput phi plo w =>
    simp only [execPput, pendingWritesOf, codesWrites]
    cases pairOfCodes? phi plo
    exacts [.inl ⟨_, fun _ => rfl⟩, .inr ⟨_, fun _ _ _ => rfl, fun _ => rfl⟩]
  case psel sel =>
    unfold execPsel
    cases pairOfSel? sel
    exacts [.inl ⟨_, fun _ => rfl⟩, .inr ⟨_, fun _ _ _ => rfl, fun _ => rfl⟩]
  case nop | fclrall | fpar b | fzero b | fsign b | ropc b k =>
    exact .inr ⟨_, fun _ _ _ => rfl, fun _ => rfl⟩
  all_goals exact .inl ⟨.illegalCommand, fun _ => rfl⟩

/-- Inversion: what the next state of a command is, its pending writes named. -/
theorem exec_next_pendingWritesOf {i : Instr} {s t : State} (h : exec i s = .next t) :
    ∃ r, t = { s with response := r } ∨ t = { s.commit (pendingWritesOf i) with response := r } := by
  rcases exec_uniform i with ⟨e, hx⟩ | ⟨r, -, hx⟩
  · rw [hx, raise_eq] at h
    exact ⟨_, .inl (Host.Outcome.next.inj h).symm⟩
  · rw [hx, finish_eq] at h
    exact ⟨_, .inr (Host.Outcome.next.inj h).symm⟩

/-- The response of a command depends on `F` through the flags, and for a command other than FGET and
FITER not at all (R24). -/
theorem exec_response_withF {i : Instr} {s t t' : State} {f : Byte}
    (hf : readsFlags i = true → ∀ fl, readFlag f fl = readFlag s.f fl)
    (h : exec i s = .next t) (h' : exec i { s with f := f } = .next t') :
    t'.response = t.response := by
  rcases exec_uniform i with ⟨e, hx⟩ | ⟨r, hr, hx⟩
  · rw [hx, raise_eq] at h h'
    obtain rfl := Host.Outcome.next.inj h
    obtain rfl := Host.Outcome.next.inj h'
    rfl
  · rw [hx, finish_eq] at h h'
    obtain rfl := Host.Outcome.next.inj h
    obtain rfl := Host.Outcome.next.inj h'
    exact hr s f hf

/-- A command takes nothing off the engine's list. -/
theorem exec_requests {i : Instr} {s t : State} (h : exec i s = .next t) :
    t.requests = s.requests := by
  obtain ⟨r, rfl | rfl⟩ := exec_next_pendingWritesOf h
  · rfl
  · exact s.commit_requests _

/-- A bit of `F` that none of a command's pending writes names is as it was. -/
theorem exec_f_bit {i : Instr} {s t : State} (h : exec i s = .next t) {n : Nat}
    (hn : ∀ fl v, PendingWrite.flag fl v ∈ pendingWritesOf i → n ≠ fl.bit) :
    t.f.getLsbD n = s.f.getLsbD n := by
  obtain ⟨r, rfl | rfl⟩ := exec_next_pendingWritesOf h
  · rfl
  · exact s.commit_f_bit _ n hn

/-- No command changes bit 1, 4 or 5 of `F` (R110). -/
theorem exec_f_fixed {i : Instr} {s t : State} (h : exec i s = .next t) :
    ∀ n ∈ [1, 4, 5], t.f.getLsbD n = s.f.getLsbD n :=
  fun n hn => exec_f_bit h fun fl _ _ => fl.ne_bit_of_fixed n hn

/-- A cell that none of a command's pending writes names is as it was. -/
theorem exec_read_cell {i : Instr} {s t : State} (h : exec i s = .next t) {r : Reg}
    (hr : ∀ v, PendingWrite.cell r v ∉ pendingWritesOf i) :
    t.cells.read r = s.cells.read r := by
  obtain ⟨_, rfl | rfl⟩ := exec_next_pendingWritesOf h
  · rfl
  · exact s.read_commit_of_not_mem hr

/-- A command of the flag part leaves the cells. -/
theorem exec_cells {i : Instr} {s t : State} (hop : (encode i).getLsbD 4 = false)
    (h : exec i s = .next t) : t.cells = s.cells := by
  have hsame : t = { t with cells := s.cells } :=
    Host.Outcome.next.inj (h.symm.trans (exec_withCells hop h s.cells))
  rw [hsame]

/-- A command of the register part leaves `F`. -/
theorem exec_f {i : Instr} {s t : State} (hop : (encode i).getLsbD 4 = true)
    (h : exec i s = .next t) : t.f = s.f := by
  have hsame : t = { t with f := s.f } :=
    Host.Outcome.next.inj (h.symm.trans (exec_withF hop h s.f))
  rw [hsame]

/-- The frame of a command of the flag part, whose pending writes name bits of `F`. -/
theorem exec_frame_of_flagPart {i : Instr} {s t : State} {written : List Nat}
    (hop : i.opNumber.testBit 4 = false)
    (hw : ∀ fl v, PendingWrite.flag fl v ∈ pendingWritesOf i → fl.bit ∈ written)
    (h : exec i s = .next t) :
    t.cells = s.cells ∧ t.requests = s.requests ∧
      ∀ n, n ∉ written → t.f.getLsbD n = s.f.getLsbD n :=
  ⟨exec_cells ((getLsbD_encode_four i).trans hop) h, exec_requests h, fun _ hn =>
    exec_f_bit h fun fl v hm hbit => hn (hbit ▸ hw fl v hm)⟩

/-- The frame of a command of the register part, whose pending writes name cells. -/
theorem exec_frame_of_registerPart {i : Instr} {s t : State} {written : List Code}
    (hop : i.opNumber.testBit 4 = true)
    (hw : ∀ r v, PendingWrite.cell r v ∈ pendingWritesOf i → r.code ∈ written)
    (h : exec i s = .next t) :
    t.f = s.f ∧ t.requests = s.requests ∧
      ∀ (j : Code) (v : Byte), j ∉ written → (j, v) ∈ Claims.cellsByCode s.cells →
        (j, v) ∈ Claims.cellsByCode t.cells := by
  refine ⟨exec_f ((getLsbD_encode_four i).trans hop) h, exec_requests h, fun j v hj hs => ?_⟩
  obtain ⟨r, rfl, rfl⟩ := (mem_cellsByCode _ _ _).mp hs
  exact (mem_cellsByCode _ _ _).mpr
    ⟨r, rfl, (exec_read_cell h fun v hm => hj (hw r v hm)).symm⟩

end Sys2Proof.Machine

/-! SUPPORT. The invariant of the block, and what a command and a cycle do to it. -/

namespace Sys2Proof.Machine

/-- The two conditions of the invariant. -/
theorem State.inv_iff (s : State) :
    s.inv = true ↔ flagWordOk s.f = true ∧ s.response.ok = true := by
  simp only [State.inv, Bool.and_eq_true]

/-- The flag word's condition speaks of bits 1, 4 and 5 alone. -/
theorem flagWordOk_congr {f g : Byte} (h : ∀ n ∈ [1, 4, 5], f.getLsbD n = g.getLsbD n) :
    flagWordOk f = true ↔ flagWordOk g = true := by
  rw [flagWordOk_iff, flagWordOk_iff, h 1 (by decide), h 4 (by decide), h 5 (by decide)]

/-- The response of a command has the shape of a response (R74, R206). -/
theorem exec_response_ok {i : Instr} {s t : State} (h : exec i s = .next t) :
    t.response.ok = true := by
  rcases exec_next h with ⟨e, he, rfl⟩ | ⟨ws, r, hr, rfl⟩
  · exact Response.ok_error he
  · exact Response.ok_of_err_none hr

/-- A command keeps the flag word's condition, and its response has its shape whatever the last one was. -/
theorem exec_inv {i : Instr} {s t : State} (hs : flagWordOk s.f = true) (h : exec i s = .next t) :
    t.inv = true :=
  t.inv_iff.mpr ⟨(flagWordOk_congr (exec_f_fixed h)).mpr hs, exec_response_ok h⟩

/-- A reset edge establishes the invariant from any state. -/
theorem State.resetEdge_inv (s : State) : s.resetEdge.inv = true :=
  s.resetEdge.inv_iff.mpr ⟨flagWordOk_reset, Response.ok_of_err_none rfl⟩

end Sys2Proof.Machine

/-! The statements of `spec/10_state.md`, settled. -/

namespace Sys2Proof.Proofs

open Sys2Proof.Machine

/-- Settles O33: a cycle is a reset edge, which establishes the invariant, or a command, which keeps the
fixed bits of `F` and answers in the shape of a response. -/
theorem stepKeepsTheInvariant : Obligations.StepKeepsTheInvariant := by
  intro s t hs h
  rcases step_cases s with ⟨-, hx⟩ | ⟨-, hx⟩
  · obtain rfl := Host.Outcome.next.inj (hx.symm.trans h)
    exact s.takePresented.resetEdge_inv
  · obtain ⟨hf, -⟩ := s.inv_iff.mp hs
    exact exec_inv (s := s.takePresented) hf (hx.symm.trans h)

/-- Settles O37: a response depends on `F` through the flags at most (`exec_response_withF`), and the
flags stand at the bits that the statement lists. -/
theorem hiddenBitsNeverReachTheResponse : Obligations.HiddenBitsNeverReachTheResponse := by
  intro i s t t' f' h h'
  refine ⟨fun hbits => ?_, fun hget hiter => ?_, exec_f_fixed h'⟩
  · exact exec_response_withF (fun _ fl => hbits fl.bit fl.bit_mem) h h'
  · refine exec_response_withF (fun hreads => ?_) h h'
    simp [readsFlags_eq_false hget hiter] at hreads

/-- Settles O42: PSEL answers the two codes of the selector's pair, and PADDR of twice the selector reads
that same pair. -/
theorem selectedPairIsTheAddressPair : Obligations.SelectedPairIsTheAddressPair := by
  intro s sel hsel
  obtain ⟨p, hp⟩ := Option.ne_none_iff_exists'.mp (mt (pairOfSel?_eq_none sel).mp hsel)
  refine ⟨{ s with response := { dhi := p.hi.code, dlo := p.lo.code } }, ?_, rfl, ?_⟩
  · simp only [exec, execPsel, hp, finish_eq, State.commit_nil]
  · simp only [exec, execPget, execPaddr, pairOfCodes?_code, pairOfAddrCode?_two_mul, hp]

/-- Settles O48: the ten commands are of the flag part, and their pending writes name the flags
listed. -/
theorem flagCommandsFrame : Obligations.FlagCommandsFrame := by
  intro k b s t i written hi
  simp only [List.mem_cons, Prod.mk.injEq, List.not_mem_nil, or_false] at hi
  rcases hi with ⟨rfl, rfl⟩ | ⟨rfl, rfl⟩ | ⟨rfl, rfl⟩ | ⟨rfl, rfl⟩ | ⟨rfl, rfl⟩ | ⟨rfl, rfl⟩ |
    ⟨rfl, rfl⟩ | ⟨rfl, rfl⟩ | ⟨rfl, rfl⟩ | ⟨rfl, rfl⟩ <;>
    refine exec_frame_of_flagPart (by simp [Instr.opNumber, Nat.testBit]) fun fl v hm => ?_
  · cases hm
  · exact List.mem_singleton.mpr (bit_eq_of_mem_keyWrites hm)
  · exact List.mem_singleton.mpr (bit_eq_of_mem_keyWrites hm)
  · cases hm
  · exact List.mem_singleton.mpr (bit_eq_of_mem_keyWrites hm)
  · exact fl.bit_mem
  · cases hm
  · cases List.mem_singleton.mp hm
    exact List.mem_cons_self
  · cases List.mem_singleton.mp hm
    exact List.mem_cons_self
  · rcases List.mem_pair.mp hm with hw | hw <;> cases hw <;> exact List.mem_cons_self

/-- Settles O49: the seven commands are of the register part, and their pending writes name the cells
listed. -/
theorem registerFileCommandsFrame : Obligations.RegisterFileCommandsFrame := by
  intro k phi plo b w sel s t i written hi
  simp only [List.mem_cons, Prod.mk.injEq, List.not_mem_nil, or_false] at hi
  rcases hi with ⟨rfl, rfl⟩ | ⟨rfl, rfl⟩ | ⟨rfl, rfl⟩ | ⟨rfl, rfl⟩ | ⟨rfl, rfl⟩ | ⟨rfl, rfl⟩ |
    ⟨rfl, rfl⟩ <;>
    refine exec_frame_of_registerPart (by simp [Instr.opNumber, Nat.testBit]) fun r v hm => ?_
  · cases hm
  · exact List.mem_singleton.mpr (code_eq_of_mem_codeWrites hm)
  · cases hm
  · cases hm
  · exact code_mem_of_mem_codesWrites hm
  · cases hm
  · cases hm

/-- Settles O1, by evaluation of the reset state. -/
theorem resetStateHoldsSpecValues : Obligations.ResetStateHoldsSpecValues :=
  ⟨rfl, by decide, rfl, rfl⟩

/-- Settles O34: the reset values of `F` and of the response meet their conditions, and the invariant
does not speak of the presented cycles. -/
theorem resetMeetsTheInvariant : Obligations.ResetMeetsTheInvariant :=
  fun _ => (State.inv_iff _).mpr ⟨flagWordOk_reset, Response.ok_of_err_none rfl⟩

end Sys2Proof.Proofs

/-! SUPPORT. A command is a function of `F` and the cells alone: it reads neither the last response
nor the engine's list (`spec/10_state.md` R38). -/

namespace Sys2Proof.Machine

/-- A command raises one and the same error in every state, or commits the same writes in every state
with a response that is a function of `F` and the cells. -/
theorem exec_fromBlockState (i : Instr) :
    (∃ e, ∀ s, exec i s = raise e s) ∨
      ∃ (ws : List PendingWrite) (r : Byte → Cells → Response),
        ∀ s, exec i s = finish ws (r s.f s.cells) s := by
  cases hop : (encode i).getLsbD 4 with
  | false =>
    obtain he | ⟨ws, r, hx, -⟩ := exec_flagPart i hop
    exacts [.inl he, .inr ⟨ws, fun f _ => r f, hx⟩]
  | true =>
    obtain he | ⟨ws, r, hx, -⟩ := exec_registerPart i hop
    exacts [.inl he, .inr ⟨ws, fun _ c => r c, hx⟩]

/-- A command does not read the last response (R38, R209). -/
theorem exec_withResponse (i : Instr) (s : State) (r : Response) :
    exec i { s with response := r } = exec i s := by
  rcases exec_fromBlockState i with ⟨e, hx⟩ | ⟨ws, answer, hx⟩
  · simp only [hx, raise_eq]
  · simp only [hx, finish_eq, State.commit_withResponse]

/-- A command does not read what the engine presents in the coming cycles. -/
theorem exec_withRequests {i : Instr} {s t : State} (h : exec i s = .next t) (q : List PortCycle) :
    exec i { s with requests := q } = .next { t with requests := q } := by
  rcases exec_fromBlockState i with ⟨e, hx⟩ | ⟨ws, answer, hx⟩
  · obtain rfl := Host.Outcome.next.inj ((hx s).symm.trans h)
    exact hx _
  · obtain rfl := Host.Outcome.next.inj ((hx s).symm.trans h)
    simp only [hx, finish_eq, State.commit_withRequests]

/-- Every command completes: it has a next state (R200, R250). -/
theorem exec_completes (i : Instr) (s : State) : ∃ t, exec i s = .next t := by
  rcases exec_cases i s with ⟨e, -, hx⟩ | ⟨ws, r, -, hx⟩
  · exact ⟨_, hx⟩
  · exact ⟨_, hx⟩

/-- Every cycle completes: a reset edge has its next state, a command completes (R216, R250). -/
theorem step_completes (s : State) : ∃ t, step s = .next t := by
  rcases step_cases s with ⟨-, hx⟩ | ⟨-, hx⟩
  · exact ⟨_, hx⟩
  · obtain ⟨t, ht⟩ := exec_completes (decodeRequest s.presented.req) s.takePresented
    exact ⟨t, hx.trans ht⟩

/-- A command with no pending writes leaves a state in which the response alone is new. -/
theorem exec_of_pendingWritesOf_nil {i : Instr} (hi : pendingWritesOf i = []) (s : State) :
    ∃ r : Response, exec i s = .next { s with response := r } := by
  rcases exec_uniform i with ⟨e, hx⟩ | ⟨answer, -, hx⟩
  · exact ⟨_, hx s⟩
  · exact ⟨answer s, by rw [hx, hi, finish_eq, State.commit_nil]⟩

end Sys2Proof.Machine

/-! SUPPORT. The round trip of the encoding, and runs of presented commands (`spec/30_encoding.md` R70
to R73, `spec/70_reset_and_hazards.md` R250, R251). -/

namespace Sys2Proof.Laws

open Sys2Proof

/-- The decoder reads back every command from its request word: its number selects its row, and each
operand stands in its field (R70 to R73). -/
theorem decodeRequest_encode (i : Instr) : decodeRequest (encode i) = i := by
  cases i <;>
    simp [encode, decodeRequest, Instr.opNumber, Instr.operands, fieldOp_packRequest,
      fieldK_packRequest, fieldPhi_packRequest, fieldPlo_packRequest, fieldSel_packRequest,
      fieldB_packRequest, fieldW_packRequest]

end Sys2Proof.Laws

namespace Sys2Proof.Machine

/-- A cycle in which a command is presented without a reset runs that command. -/
theorem step_of_requests {s : State} {i : Instr} {rest : List PortCycle}
    (h : s.requests = { rst := false, req := encode i } :: rest) :
    step s = exec i { s with requests := rest } := by
  have hpres : s.presented = { rst := false, req := encode i } := by simp [State.presented, h]
  have htake : s.takePresented = { s with requests := rest } := by simp [State.takePresented, h]
  rcases step_cases s with ⟨hrst, -⟩ | ⟨-, hstep⟩
  · simp [hpres] at hrst
  · rw [hstep, hpres, htake, Laws.decodeRequest_encode]

/-- A run goes on from the state that its first cycle leaves. -/
theorem run_succ_of_step {s t : State} (h : step s = .next t) (n : Nat) :
    Host.Core.run Sys2Proof.core (n + 1) s = Host.Core.run Sys2Proof.core n t := by
  have hcore : Sys2Proof.core.step s = .next t := h
  simp only [Host.Core.run, hcore]

/-- A run of one cycle is that cycle. -/
theorem run_one (s : State) : Host.Core.run Sys2Proof.core 1 s = step s := by
  obtain ⟨t, ht⟩ := step_completes s
  exact (run_succ_of_step ht 0).trans ht.symm

end Sys2Proof.Machine

/-! The statements of `spec/20_memory.md`, settled. -/

namespace Sys2Proof.Proofs

open Sys2Proof.Machine

/-- Settles O38: a read command has no pending writes, so only the response is new, and no command
reads the response. -/
theorem readCommandsHaveNoSideEffect : Obligations.ReadCommandsHaveNoSideEffect := by
  intro i k phi plo b sel s hi
  have hnone : pendingWritesOf i = [] := by
    simp only [List.mem_cons, List.not_mem_nil, or_false] at hi
    rcases hi with rfl | rfl | rfl | rfl | rfl | rfl | rfl <;> rfl
  obtain ⟨r, hr⟩ := exec_of_pendingWritesOf_nil hnone s
  exact ⟨r, hr, (exec_withResponse i s r).trans hr⟩

/-- Settles O44: each of the two cycles runs the command presented in it, and the first command leaves
the second in its place on the engine's list. -/
theorem commandsTakeEffectInOrder : Obligations.CommandsTakeEffectInOrder := by
  intro s i j rest hs
  obtain ⟨t, ht⟩ := exec_completes i { s with requests := rest }
  have hrest : t.requests = rest := exec_requests ht
  have hfirst : step s = .next { t with requests := { rst := false, req := encode j } :: rest } :=
    (step_of_requests hs).trans (exec_withRequests ht _)
  refine ⟨t, ht, ?_⟩
  rw [run_succ_of_step hfirst, run_one, step_of_requests rfl, ← hrest]

end Sys2Proof.Proofs

/-! SUPPORT. A request word is its seven fields (`spec/30_encoding.md` R70), and the encoding of a
decoded word is made of the fields its command uses (R71, R72). -/

namespace Sys2Proof.Laws

open Sys2Proof

/-- A request word is made of its fields, as R70 lays them out. -/
theorem packRequest_fields (w : RequestWord) :
    packRequest (fieldOp w).toNat
      { k := (fieldK w).toNat, phi := (fieldPhi w).toNat, plo := (fieldPlo w).toNat,
        sel := (fieldSel w).toNat, b := (fieldB w).toNat, w := (fieldW w).toNat } = w := by
  apply BitVec.eq_of_getLsbD_eq
  intro n hn
  simp only [getLsbD_packRequest, BitVec.ofNat_toNat, BitVec.setWidth_eq, fieldOp, fieldK, fieldPhi,
    fieldPlo, fieldSel, fieldB, fieldW, BitVec.getLsbD_extractLsb']
  grind

/-- Two request words with the same fields are the same. -/
theorem requestWord_ext {w w' : RequestWord} (hop : fieldOp w = fieldOp w')
    (hk : fieldK w = fieldK w') (hphi : fieldPhi w = fieldPhi w') (hplo : fieldPlo w = fieldPlo w')
    (hsel : fieldSel w = fieldSel w') (hb : fieldB w = fieldB w') (hw : fieldW w = fieldW w') :
    w = w' := by
  rw [← packRequest_fields w, ← packRequest_fields w', hop, hk, hphi, hplo, hsel, hb, hw]

section

/-! The fields of a masked word are the masked fields. -/

variable (w m : RequestWord)

theorem fieldOp_and : fieldOp (w &&& m) = fieldOp w &&& fieldOp m := BitVec.extractLsb'_and
theorem fieldK_and : fieldK (w &&& m) = fieldK w &&& fieldK m := BitVec.extractLsb'_and
theorem fieldPhi_and : fieldPhi (w &&& m) = fieldPhi w &&& fieldPhi m := BitVec.extractLsb'_and
theorem fieldPlo_and : fieldPlo (w &&& m) = fieldPlo w &&& fieldPlo m := BitVec.extractLsb'_and
theorem fieldSel_and : fieldSel (w &&& m) = fieldSel w &&& fieldSel m := BitVec.extractLsb'_and
theorem fieldB_and : fieldB (w &&& m) = fieldB w &&& fieldB m := BitVec.extractLsb'_and
theorem fieldW_and : fieldW (w &&& m) = fieldW w &&& fieldW m := BitVec.extractLsb'_and

end

/-- A field that the mask covers is kept. -/
theorem and_covered {n : Nat} {v m : BitVec n} (hm : m = BitVec.allOnes n) :
    v &&& m = BitVec.ofNat n v.toNat := by
  rw [hm, BitVec.and_allOnes, BitVec.ofNat_toNat, BitVec.setWidth_eq]

/-- A field that the mask does not meet is cleared. -/
theorem and_uncovered {n : Nat} {v m : BitVec n} (hm : m = 0) : v &&& m = BitVec.ofNat n 0 := by
  rw [hm]
  exact BitVec.and_zero

/-- A request word under a mask that covers `op`, field by field. A field of which nothing is said at
the use of this lemma is one that the mask clears. -/
theorem and_eq_packRequest {w m : RequestWord} {o : OperandFields} (hop : fieldOp m = 0x1F)
    (hk : fieldK w &&& fieldK m = BitVec.ofNat 3 o.k := by exact and_uncovered rfl)
    (hphi : fieldPhi w &&& fieldPhi m = BitVec.ofNat 3 o.phi := by exact and_uncovered rfl)
    (hplo : fieldPlo w &&& fieldPlo m = BitVec.ofNat 3 o.plo := by exact and_uncovered rfl)
    (hsel : fieldSel w &&& fieldSel m = BitVec.ofNat 2 o.sel := by exact and_uncovered rfl)
    (hb : fieldB w &&& fieldB m = BitVec.ofNat 8 o.b := by exact and_uncovered rfl)
    (hw : fieldW w &&& fieldW m = BitVec.ofNat 16 o.w := by exact and_uncovered rfl) :
    w &&& m = packRequest (fieldOp w).toNat o := by
  have hall : fieldOp w &&& 0x1F = BitVec.ofNat 5 (fieldOp w).toNat := and_covered rfl
  apply requestWord_ext
  · rw [fieldOp_and, hop, hall, fieldOp_packRequest]
  · rw [fieldK_and, hk, fieldK_packRequest]
  · rw [fieldPhi_and, hphi, fieldPhi_packRequest]
  · rw [fieldPlo_and, hplo, fieldPlo_packRequest]
  · rw [fieldSel_and, hsel, fieldSel_packRequest]
  · rw [fieldB_and, hb, fieldB_packRequest]
  · rw [fieldW_and, hw, fieldW_packRequest]

/-- The command that the decoder answers has the number that `op` holds (R71). -/
theorem opNumber_decodeRequest (w : RequestWord) :
    (decodeRequest w).opNumber = (fieldOp w).toNat := by
  have hlt := (fieldOp w).isLt
  unfold decodeRequest
  split
  case h_32 => grind [Instr.opNumber]
  all_goals exact Eq.symm ‹_›

/-- The used bits of a request word are its `op` and the operands of the command that the decoder
answers (R70, R72). The cases are the rows of the mask's table, which are the operand lists of R72. -/
theorem and_usedBits (w : RequestWord) :
    w &&& Claims.usedBits (fieldOp w) =
      packRequest (fieldOp w).toNat (decodeRequest w).operands := by
  unfold Claims.usedBits
  split_ifs with hk hkb hb hk' hkb' hcodes hcodesw hsel
  · have ho : (decodeRequest w).operands = { k := (fieldK w).toNat } := by
      rcases hk with h | h | h <;> rw [decodeRequest, h] <;> rfl
    exact ho ▸ and_eq_packRequest rfl (hk := and_covered rfl)
  · have ho : (decodeRequest w).operands = { k := (fieldK w).toNat, b := (fieldB w).toNat } := by
      rw [decodeRequest, hkb]; rfl
    exact ho ▸ and_eq_packRequest rfl (hk := and_covered rfl) (hb := and_covered rfl)
  · have ho : (decodeRequest w).operands = { b := (fieldB w).toNat } := by
      rcases hb with h | h | h <;> rw [decodeRequest, h] <;> rfl
    exact ho ▸ and_eq_packRequest rfl (hb := and_covered rfl)
  · have ho : (decodeRequest w).operands = { k := (fieldK w).toNat } := by
      rcases hk' with h | h <;> rw [decodeRequest, h] <;> rfl
    exact ho ▸ and_eq_packRequest rfl (hk := and_covered rfl)
  · have ho : (decodeRequest w).operands = { k := (fieldK w).toNat, b := (fieldB w).toNat } := by
      rcases hkb' with h | h <;> rw [decodeRequest, h] <;> rfl
    exact ho ▸ and_eq_packRequest rfl (hk := and_covered rfl) (hb := and_covered rfl)
  · have ho : (decodeRequest w).operands =
        { phi := (fieldPhi w).toNat, plo := (fieldPlo w).toNat } := by
      rw [decodeRequest, hcodes]; rfl
    exact ho ▸ and_eq_packRequest rfl (hphi := and_covered rfl) (hplo := and_covered rfl)
  · have ho : (decodeRequest w).operands =
        { phi := (fieldPhi w).toNat, plo := (fieldPlo w).toNat, w := (fieldW w).toNat } := by
      rw [decodeRequest, hcodesw]; rfl
    exact ho ▸ and_eq_packRequest rfl (hphi := and_covered rfl) (hplo := and_covered rfl)
      (hw := and_covered rfl)
  · have ho : (decodeRequest w).operands = { sel := (fieldSel w).toNat } := by
      rw [decodeRequest, hsel]; rfl
    exact ho ▸ and_eq_packRequest rfl (hsel := and_covered rfl)
  · have ho : (decodeRequest w).operands = {} := by
      -- a row with operands has a number that an earlier row of the mask's table names
      unfold decodeRequest
      split <;> simp_all [BitVec.toNat_eq, Instr.operands]
    exact ho ▸ and_eq_packRequest rfl

/-- Encoding what the decoder answers gives the used bits of the word (R70 to R72). -/
theorem encode_decodeRequest (w : RequestWord) :
    encode (decodeRequest w) = w &&& Claims.usedBits (fieldOp w) := by
  rw [encode, opNumber_decodeRequest, and_usedBits]

/-- Every command presents operands that fit their ports (R13). -/
theorem wellFormed_eq_true (i : Instr) : i.wellFormed = true := by
  cases i
  case fset k => exact WellFormed.fset k
  case fclr k => exact WellFormed.fclr k
  case fget k => exact WellFormed.fget k
  case fput k b => exact WellFormed.fput k b
  case fpar b => exact WellFormed.fpar b
  case fzero b => exact WellFormed.fzero b
  case fsign b => exact WellFormed.fsign b
  case rget k => exact WellFormed.rget k
  case rput k b => exact WellFormed.rput k b
  case paddr k => exact WellFormed.paddr k
  case pget phi plo => exact WellFormed.pget phi plo
  case pput phi plo w => exact WellFormed.pput phi plo w
  case ropc b k => exact WellFormed.ropc b k
  case psel sel => exact WellFormed.psel sel
  all_goals rfl

/-- Every command uses its `op` (R71). -/
theorem fieldOp_usedBits (op : BitVec 5) : fieldOp (Claims.usedBits op) = 0x1F := by
  revert op
  decide

/-- A request word keeps its `op` under the mask of any command. -/
theorem fieldOp_and_usedBits (w : RequestWord) (op : BitVec 5) :
    fieldOp (w &&& Claims.usedBits op) = fieldOp w := by
  rw [fieldOp_and, fieldOp_usedBits]
  exact BitVec.and_allOnes

/-- The decoder reads the used bits alone (R71). -/
theorem decodeRequest_and_usedBits (w : RequestWord) :
    decodeRequest (w &&& Claims.usedBits (fieldOp w)) = decodeRequest w := by
  rw [← encode_decodeRequest, decodeRequest_encode]

/-- Two request words that agree on the used bits select one command (R71). -/
theorem decodeRequest_congr {w w' : RequestWord}
    (h : w &&& Claims.usedBits (fieldOp w) = w' &&& Claims.usedBits (fieldOp w)) :
    decodeRequest w = decodeRequest w' := by
  have hop : fieldOp w = fieldOp w' := by
    rw [← fieldOp_and_usedBits w (fieldOp w), h, fieldOp_and_usedBits]
  rw [← decodeRequest_and_usedBits w, h, hop, decodeRequest_and_usedBits]

end Sys2Proof.Laws

namespace Sys2Proof.Machine

/-- A cycle without a reset runs the command that the presented request word selects (R250). -/
theorem step_present (s : State) (w : RequestWord) :
    step (s.present { rst := false, req := w }) = exec (decodeRequest w) s.takePresented := by
  rcases step_cases (s.present { rst := false, req := w }) with ⟨hrst, -⟩ | ⟨-, hx⟩
  · cases hrst
  · exact hx

end Sys2Proof.Machine

/-! SUPPORT. The layout of the response word, and which field a command's response can drive
(`spec/30_encoding.md` R74). -/

namespace Sys2Proof.Machine

/-- Where each bit of the response word comes from (R74). -/
theorem Response.getLsbD_word (r : Response) (n : Nat) :
    r.word.getLsbD n =
      if n < 8 then r.r8.getLsbD n
      else if n < 24 then r.r16.getLsbD (n - 8)
      else if n < 27 then r.dhi.getLsbD (n - 24)
      else if n < 30 then r.dlo.getLsbD (n - 27)
      else if n < 35 then r.fseq.getLsbD (n - 30)
      else if n < 38 then (errField r.err).getLsbD (n - 35)
      else false := by
  simp only [Response.word, BitVec.getLsbD_append, BitVec.getLsbD_zero]
  grind

/-- What a response drives: nothing, an error, or the one field of its command (R72, R74). -/
inductive Drives : Instr → Response → Prop
  | nothing (i : Instr) : Drives i {}
  | error (i : Instr) (e : ErrorKind) : Drives i { err := some e }
  | flag (k : Code) (v : Byte) : Drives (.fget k) { r8 := v }
  | cell (k : Code) (v : Byte) : Drives (.rget k) { r8 := v }
  | opcodeField (b : Byte) (k : Code) (v : Byte) : Drives (.ropc b k) { r8 := v }
  | address (k : Code) (v : Word) : Drives (.paddr k) { r16 := v }
  | pair (phi plo : Code) (v : Word) : Drives (.pget phi plo) { r16 := v }
  | descriptor (sel : Selector) (hi lo : Code) : Drives (.psel sel) { dhi := hi, dlo := lo }
  | sequence (q : BitVec 5) : Drives .fiter { fseq := q }

/-- A command that raises an error drives the error alone (R208). -/
theorem drives_of_raise {i : Instr} {e : ErrorKind} {s t : State} (h : raise e s = .next t) :
    Drives i t.response := by
  obtain rfl := Host.Outcome.next.inj h
  exact .error i e

/-- A command that finishes drives the response it finishes with. -/
theorem drives_of_finish {i : Instr} {ws : List PendingWrite} {r : Response} {s t : State}
    (hr : Drives i r) (h : finish ws r s = .next t) : Drives i t.response := by
  obtain rfl := Host.Outcome.next.inj h
  exact hr

/-- The response of a command drives at most the field that R72 gives the command, or its error. -/
theorem exec_drives {i : Instr} {s t : State} (h : exec i s = .next t) : Drives i t.response := by
  cases i <;> simp only [exec] at h
  case fset k =>
    unfold execFset at h
    split at h
    exacts [drives_of_raise h, drives_of_finish (.nothing _) h]
  case fclr k =>
    unfold execFclr at h
    split at h
    exacts [drives_of_raise h, drives_of_finish (.nothing _) h]
  case fget k =>
    unfold execFget at h
    split at h
    exacts [drives_of_raise h, drives_of_finish (.flag _ _) h]
  case fput k b =>
    unfold execFput at h
    split at h
    · exact drives_of_raise h
    · split at h
      exacts [drives_of_raise h, drives_of_finish (.nothing _) h]
  case fiter => exact drives_of_finish (.sequence _) h
  case rget k =>
    unfold execRget at h
    split at h
    exacts [drives_of_raise h, drives_of_finish (.cell _ _) h]
  case rput k b =>
    unfold execRput at h
    split at h
    exacts [drives_of_raise h, drives_of_finish (.nothing _) h]
  case paddr k =>
    unfold execPaddr at h
    split at h
    exacts [drives_of_raise h, drives_of_finish (.address _ _) h]
  case pget phi plo =>
    unfold execPget at h
    split at h
    exacts [drives_of_raise h, drives_of_finish (.pair _ _ _) h]
  case pput phi plo w =>
    unfold execPput at h
    split at h
    exacts [drives_of_raise h, drives_of_finish (.nothing _) h]
  case ropc b k => exact drives_of_finish (.opcodeField _ _ _) h
  case psel sel =>
    unfold execPsel at h
    split at h
    exacts [drives_of_raise h, drives_of_finish (.descriptor _ _ _) h]
  case nop | fclrall | fpar | fzero | fsign => exact drives_of_finish (.nothing _) h
  all_goals exact drives_of_raise h

section

/-! Which command a field of a response that is not 0 tells. -/

variable {i : Instr} {r : Response} (h : Drives i r)
include h

theorem Drives.r8 (hr : r.r8 ≠ 0) : ∃ (k : Code) (b : Byte), i ∈ [.fget k, .rget k, .ropc b k] := by
  cases h
  case flag k v => exact ⟨k, 0, by simp⟩
  case cell k v => exact ⟨k, 0, by simp⟩
  case opcodeField b k v => exact ⟨k, b, by simp⟩
  all_goals exact absurd rfl hr

theorem Drives.r16 (hr : r.r16 ≠ 0) : ∃ k k' : Code, i ∈ [.paddr k, .pget k k'] := by
  cases h
  case address k v => exact ⟨k, 0, by simp⟩
  case pair phi plo v => exact ⟨phi, plo, by simp⟩
  all_goals exact absurd rfl hr

theorem Drives.descriptor_codes (hr : r.dhi ≠ 0 ∨ r.dlo ≠ 0) : ∃ sel : Selector, i = .psel sel := by
  cases h
  case descriptor sel hi lo => exact ⟨sel, rfl⟩
  all_goals exact absurd rfl (or_self_iff.mp hr)

theorem Drives.fseq (hr : r.fseq ≠ 0) : i = .fiter := by
  cases h
  case sequence q => rfl
  all_goals exact absurd rfl hr

theorem Drives.err (hr : r.err ≠ none) : r = { err := r.err } := by
  cases h
  case error e => rfl
  all_goals exact absurd rfl hr

end

end Sys2Proof.Machine

/-! The statements of `spec/30_encoding.md`, settled. -/

namespace Sys2Proof.Proofs

open Sys2Proof.Machine

/-- Settles O6: the operands fit their ports, and the decoder reads each back from its field. -/
theorem decodeOfEncodeIsTheCommand : Obligations.DecodeOfEncodeIsTheCommand :=
  fun i => ⟨Laws.wellFormed_eq_true i, Laws.decodeRequest_encode i⟩

/-- Settles O7: field by field, the mask of R72's operands keeps what the decoder hands to the command
and clears the rest (`Laws.and_usedBits`). -/
theorem encodeOfDecodeKeepsTheUsedBits : Obligations.EncodeOfDecodeKeepsTheUsedBits :=
  Laws.encode_decodeRequest

/-- Settles O8: the decoder reads the used bits alone, and a cycle depends on its request word through
the selected command alone. -/
theorem unusedFieldsAreIgnored : Obligations.UnusedFieldsAreIgnored := by
  intro w w' h
  have hdecode : decodeRequest w = decodeRequest w' := Laws.decodeRequest_congr h
  exact ⟨hdecode, fun s => by rw [step_present, step_present, hdecode]⟩

/-- Settles O46: the fields stand at their bits of the word, and a response drives no field but its
command's, or its error alone (`exec_drives`). -/
theorem responseWordHasTheFieldsOfItsTable : Obligations.ResponseWordHasTheFieldsOfItsTable := by
  refine ⟨fun r => ?_, fun i s t h => ?_⟩
  · refine ⟨?_, ?_, ?_, ?_, ?_, ?_, ?_⟩
    all_goals
      refine Laws.extractLsb'_packRequest _ _ fun n hn => ?_
      rw [Response.getLsbD_word]
      grind
  · have hd := exec_drives h
    exact ⟨hd.r8, hd.r16, hd.descriptor_codes, hd.fseq, hd.err⟩

/-- Settles O5, by evaluation of the decoder on the sixteen words. -/
theorem decodesWordsWrittenOutFromTheSpec : Obligations.DecodesWordsWrittenOutFromTheSpec := by
  unfold Obligations.DecodesWordsWrittenOutFromTheSpec
  decide

/-- Settles O47, by evaluation of `errField` on its eight arguments. -/
theorem errorNumbersAreThoseOfTheTable : Obligations.ErrorNumbersAreThoseOfTheTable :=
  ⟨rfl, rfl, rfl, rfl, rfl, rfl, rfl, rfl⟩

/-- Settles O51, by evaluation of the assembler on the lines. -/
theorem aliasesAssembleLikeTheirMnemonics : Obligations.AliasesAssembleLikeTheirMnemonics := by
  unfold Obligations.AliasesAssembleLikeTheirMnemonics
  decide

end Sys2Proof.Proofs

/-! SUPPORT. An invariant of every cycle holds along every run. -/

namespace Sys2Proof.Machine

/-- What every cycle keeps holds in whatever state a run from it ends in. -/
theorem run_keeps {P : State → Prop} (hstep : ∀ s t, P s → step s = .next t → P t) (n : Nat)
    {s t : State} (hs : P s) (h : Host.Core.run Sys2Proof.core n s = .next t) : P t := by
  induction n generalizing s with
  | zero =>
    obtain rfl : s = t := Host.Outcome.next.inj h
    exact hs
  | succ n ih =>
    obtain ⟨u, hu⟩ := step_completes s
    exact ih (hstep s u hs hu) ((run_succ_of_step hu n).symm.trans h)

end Sys2Proof.Machine

/-! SUPPORT. The keys of the statements (`spec/40_condition_flags.md` R100), and the flag word as its
fixed bits and its flags (`spec/10_state.md` R20 to R23). -/

namespace Sys2Proof.Machine

/-- A key names a flag exactly when it is the bit of one, under either placement of AC (R100). -/
theorem flagOfKeyAt?_isSome (ac : AcPlacement) (k : Code) :
    (flagOfKeyAt? ac k).isSome = true ↔
      k.toNat = 0 ∨ k.toNat = 2 ∨ k.toNat = ac.position ∨ k.toNat = 6 ∨ k.toNat = 7 := by
  simp [flagOfKeyAt?, List.find?_isSome, Flag.all, Flag.bitAt, eq_comm (b := k.toNat)]

/-- The statements' addressable keys are those that name a flag. -/
theorem mem_flagKeys (k : Code) : k ∈ Claims.flagKeys ↔ ∃ fl, flagOfKey? k = some fl := by
  rw [← Option.isSome_iff_exists]
  revert k
  decide

/-- The statements' other keys are those that name no flag. -/
theorem mem_otherKeys (k : Code) : k ∈ Claims.otherKeys ↔ flagOfKey? k = none := by
  simp [Claims.otherKeys, flagOfKey?_eq_none]

/-- A key that is not addressable names no flag. -/
theorem flagOfKey?_eq_none_of_not_mem {k : Code} (h : k ∉ Claims.flagKeys) :
    flagOfKey? k = none :=
  Option.eq_none_iff_forall_ne_some.mpr fun fl hk => h ((mem_flagKeys k).mpr ⟨fl, hk⟩)

/-- Two keys that name one flag are the same. -/
theorem flagOfKey?_inj {k j : Code} {fl : Flag} (hk : flagOfKey? k = some fl)
    (hj : flagOfKey? j = some fl) : j = k :=
  BitVec.eq_of_toNat_eq
    (((flagOfKey?_eq_some j fl).mp hj).trans ((flagOfKey?_eq_some k fl).mp hk).symm)

/-- A key's write is there only for an addressable key. -/
theorem mem_flagKeys_of_mem_keyWrites {k : Code} {v : Bool} {p : PendingWrite}
    (h : p ∈ keyWrites k v) : k ∈ Claims.flagKeys := by
  obtain ⟨fl, hk, -⟩ := List.mem_map.mp h
  exact (mem_flagKeys k).mpr ⟨fl, Option.mem_toList.mp hk⟩

/-- Every bit of `F` is a fixed bit or that of a flag (R20). -/
theorem fixed_or_flag_bit {n : Nat} (hn : n < 8) : n ∈ [1, 4, 5] ∨ ∃ fl : Flag, fl.bit = n := by
  have hall : ∀ m < 8, m ∈ [1, 4, 5] ∨ m ∈ Flag.all.map Flag.bit := by decide
  refine (hall n hn).imp_right fun hm => ?_
  obtain ⟨fl, -, hfl⟩ := List.mem_map.mp hm
  exact ⟨fl, hfl⟩

/-- Two flag words with the same fixed bits and the same flags are the same. -/
theorem flagWord_ext {f g : Byte} (hfixed : ∀ n ∈ [1, 4, 5], f.getLsbD n = g.getLsbD n)
    (hflags : ∀ fl, readFlag f fl = readFlag g fl) : f = g := by
  apply BitVec.eq_of_getLsbD_eq
  intro n hn
  rcases fixed_or_flag_bit hn with hfix | ⟨fl, rfl⟩
  · exact hfixed n hfix
  · exact hflags fl

/-- One value written to a list of flags. -/
theorem readFlag_commit_map (s : State) (fls : List Flag) (v : Bool) (fl : Flag) :
    readFlag (s.commit (fls.map (.flag · v))).f fl = if fl ∈ fls then v else readFlag s.f fl := by
  induction fls generalizing s with
  | nil => rfl
  | cons fl' fls ih =>
    rw [List.map_cons, State.commit_cons, ih, State.apply_flag_f, readFlag_writeFlag]
    by_cases h : fl = fl' <;> simp [h]

/-- Element `n` of the sequence FITER reads is the `n`-th flag of the iteration (R106). -/
theorem getLsbD_flagSequenceAt (ac : AcPlacement) (f : Byte) {n : Nat} {fl : Flag}
    (h : Flag.all[n]? = some fl) : (flagSequenceAt ac f).getLsbD n = f.getLsbD (fl.bitAt ac) := by
  match n with
  | 0 | 1 | 2 | 3 | 4 =>
    obtain rfl := Option.some.inj h
    simp only [flagSequenceAt, readBit, BitVec.getLsbD_append, BitVec.getLsbD_ofBool]
    simp
  | n + 5 => cases h

end Sys2Proof.Machine

/-! SUPPORT. The tests of a byte (`spec/40_condition_flags.md` R107 to R109). -/

namespace Sys2Proof.Machine

/-- Counting by a running sum is counting. -/
theorem foldl_toNat_eq_countP (p : Nat → Bool) (ns : List Nat) (start : Nat) :
    ns.foldl (fun count n => count + (p n).toNat) start = start + ns.countP p := by
  induction ns generalizing start with
  | nil => rfl
  | cons n ns ih =>
    rw [List.foldl_cons, ih, List.countP_cons, Nat.add_assoc, Nat.add_comm (p n).toNat]
    cases p n <;> rfl

/-- P as FPAR computes it is the evenness of the number of 1 bits (R107). -/
theorem parityFlag_eq (b : Byte) :
    parityFlag b = decide ((List.range 8).countP (fun m => b.getLsbD m) % 2 = 0) := by
  have hcount : popcount b = (List.range 8).countP (fun m => b.getLsbD m) := by
    rw [popcount, foldl_toNat_eq_countP, Nat.zero_add]
  rw [parityFlag, hcount, beq_eq_decide]

/-- Z as FZERO computes it is the test of the byte's number (R108). -/
theorem zeroFlag_eq (b : Byte) : zeroFlag b = decide (b.toNat = 0) := by
  simp [zeroFlag, ← BitVec.toNat_inj, beq_eq_decide]

/-- The negativity predicate is the test of the byte's number against 0x80 (R14). -/
theorem neg_eq (b : Byte) : neg b = decide (0x80 ≤ b.toNat) :=
  (BitVec.msb_eq_getLsbD_last b).symm.trans (BitVec.msb_eq_decide b)

/-- The flag values that FPUT admits (R104). -/
theorem eq_zero_or_one_of_toNat_le {b : Byte} (h : b.toNat ≤ 1) : b = 0 ∨ b = 1 := by
  bv_omega

end Sys2Proof.Machine

/-! SUPPORT. What each flag command gives, said once: it raises one error in every state, or writes one
flag in every state (`spec/40_condition_flags.md` R101 to R109). -/

namespace Sys2Proof.Machine

/-- In every state the command `i` writes `v` to the flag `fl`, and answers zero. -/
abbrev WritesFlag (i : Instr) (fl : Flag) (v : Bool) : Prop :=
  ∀ s, exec i s = .next { s with f := writeFlag s.f fl v, response := {} }

/-- In every state the command `i` raises the error `e`. -/
abbrev Raises (i : Instr) (e : ErrorKind) : Prop :=
  ∀ s, exec i s = .next { s with response := Claims.errorAnswer e }

section

/-! The commands with a key that names a flag. -/

variable {k : Code} {fl : Flag} (hk : flagOfKey? k = some fl)
include hk

theorem fset_writesFlag : WritesFlag (.fset k) fl true := fun _ => by
  simp only [exec, execFset, hk, finish_eq]
  rfl

theorem fclr_writesFlag : WritesFlag (.fclr k) fl false := fun _ => by
  simp only [exec, execFclr, hk, finish_eq]
  rfl

theorem fput_writesFlag {b : Byte} (hb : b.toNat ≤ 1) :
    WritesFlag (.fput k b) fl (decide (b = 1)) := fun _ => by
  have hbit : b.getLsbD 0 = decide (b = 1) := by
    rcases eq_zero_or_one_of_toNat_le hb with rfl | rfl <;> rfl
  simp only [exec, execFput, hk, if_neg (Nat.not_lt.mpr hb), finish_eq, hbit]
  rfl

theorem fput_raises_invalidValue {b : Byte} (hb : 2 ≤ b.toNat) :
    Raises (.fput k b) .invalidValue := fun _ => by
  simp only [exec, execFput, hk, if_pos (Nat.lt_of_succ_le hb), raise_eq]
  rfl

/-- FGET answers the flag as 0 or 1 (R103). -/
theorem exec_fget (s : State) :
    exec (.fget k) s = .next { s with response := { r8 := if readFlag s.f fl then 1 else 0 } } := by
  simp only [exec, execFget, hk, finish_eq, State.commit_nil]
  cases readFlag s.f fl <;> rfl

end

section

/-! The commands with a key that names no flag. -/

variable {k : Code} (hk : flagOfKey? k = none)
include hk

theorem fset_raises_invalidFlag : Raises (.fset k) .invalidFlag := fun _ => by
  simp only [exec, execFset, hk, raise_eq]
  rfl

theorem fclr_raises_invalidFlag : Raises (.fclr k) .invalidFlag := fun _ => by
  simp only [exec, execFclr, hk, raise_eq]
  rfl

theorem fget_raises_outOfRangeFlag : Raises (.fget k) .outOfRangeFlag := fun _ => by
  simp only [exec, execFget, hk, raise_eq]
  rfl

theorem fput_raises_outOfRangeFlag (b : Byte) : Raises (.fput k b) .outOfRangeFlag := fun _ => by
  simp only [exec, execFput, hk, raise_eq]
  rfl

end

theorem fpar_writesFlag (b : Byte) : WritesFlag (.fpar b) .p (parityFlag b) := fun _ => rfl

theorem fzero_writesFlag (b : Byte) : WritesFlag (.fzero b) .z (zeroFlag b) := fun _ => rfl

/-- Of FSIGN's two writes the later one stays (R109). -/
theorem fsign_writesFlag (b : Byte) : WritesFlag (.fsign b) .s (neg b) := fun s => by
  rw [← writeFlag_writeFlag s.f .s false (neg b)]
  rfl

/-- A command that writes one flag, bit by bit. -/
theorem WritesFlag.bits {i : Instr} {fl : Flag} {v : Bool} (h : WritesFlag i fl v) (s : State) :
    ∃ f' : Byte, exec i s = .next { s with f := f', response := {} } ∧
      ∀ n < 8, f'.getLsbD n = if n = fl.bit then v else s.f.getLsbD n :=
  ⟨_, h s, fun n _ => getLsbD_writeFlag s.f fl v n⟩

/-- A command that writes one flag leaves every other bit of `F`. -/
theorem WritesFlag.other_bits {i : Instr} {fl : Flag} {v : Bool} (h : WritesFlag i fl v)
    {s t : State} (ht : exec i s = .next t) {n : Nat} (hn : n ≠ fl.bit) :
    t.f.getLsbD n = s.f.getLsbD n := by
  obtain rfl := Host.Outcome.next.inj ((h s).symm.trans ht)
  exact (getLsbD_writeFlag s.f fl v n).trans (if_neg hn)

/-- Commands in a row: the rest runs from the state that the first leaves (R58). -/
theorem execAll_cons {i : Instr} {s t : State} (h : exec i s = .next t) (is : List Instr) :
    Claims.execAll (i :: is) s = Claims.execAll is t := by
  simp only [Claims.execAll, h]

/-- FGET after a command that writes a flag answers what was written, and any other flag as before. -/
theorem execAll_fget {i : Instr} {fl fl' : Flag} {v : Bool} {j : Code} (hi : WritesFlag i fl v)
    (hj : flagOfKey? j = some fl') (s : State) :
    ∃ t, Claims.execAll [i, .fget j] s = .next t ∧
      t.response = { r8 := if (if fl' = fl then v else readFlag s.f fl') then 1 else 0 } := by
  refine ⟨_, (execAll_cons (hi s) _).trans (execAll_cons (exec_fget hj _) []), ?_⟩
  simp only [readFlag_writeFlag]

end Sys2Proof.Machine

/-! SUPPORT. The rows of the decoder for the flag commands (`spec/30_encoding.md` R70, R72). -/

namespace Sys2Proof.Laws

open Sys2Proof

variable {w : RequestWord}

theorem decodeRequest_fset (h : fieldOp w = 0x01) : decodeRequest w = .fset (fieldK w) := by
  rw [decodeRequest, h]; rfl

theorem decodeRequest_fclr (h : fieldOp w = 0x02) : decodeRequest w = .fclr (fieldK w) := by
  rw [decodeRequest, h]; rfl

theorem decodeRequest_fget (h : fieldOp w = 0x03) : decodeRequest w = .fget (fieldK w) := by
  rw [decodeRequest, h]; rfl

theorem decodeRequest_fput (h : fieldOp w = 0x04) :
    decodeRequest w = .fput (fieldK w) (fieldB w) := by
  rw [decodeRequest, h]; rfl

theorem decodeRequest_fclrall (h : fieldOp w = 0x05) : decodeRequest w = .fclrall := by
  rw [decodeRequest, h]; rfl

theorem decodeRequest_fiter (h : fieldOp w = 0x06) : decodeRequest w = .fiter := by
  rw [decodeRequest, h]; rfl

theorem decodeRequest_fpar (h : fieldOp w = 0x07) : decodeRequest w = .fpar (fieldB w) := by
  rw [decodeRequest, h]; rfl

theorem decodeRequest_fzero (h : fieldOp w = 0x08) : decodeRequest w = .fzero (fieldB w) := by
  rw [decodeRequest, h]; rfl

theorem decodeRequest_fsign (h : fieldOp w = 0x09) : decodeRequest w = .fsign (fieldB w) := by
  rw [decodeRequest, h]; rfl

end Sys2Proof.Laws

/-! The statements of `spec/40_condition_flags.md`, settled. -/

namespace Sys2Proof.Proofs

open Sys2Proof.Machine

/-- Settles O35: a command changes only bits that its pending writes name, which are those of flags; and
the invariant, which speaks of the fixed bits, holds along every run from reset. -/
theorem noCommandWritesTheFixedBits : Obligations.NoCommandWritesTheFixedBits := by
  refine ⟨fun i s t => exec_f_fixed, fun i k b s t hi h n _ hn => ?_, fun s t h n _ hn => ?_,
    fun i b s t hi h n _ hn => ?_, fun presented n t h => ?_⟩
  · obtain ⟨v, hv⟩ : ∃ v, pendingWritesOf i = keyWrites k v := by
      simp only [List.mem_cons, List.not_mem_nil, or_false] at hi
      rcases hi with rfl | rfl | rfl <;> exact ⟨_, rfl⟩
    refine exec_f_bit h fun fl v' hm hbit => ?_
    rw [hv] at hm
    rcases hn with hn | hn
    · exact hn (hbit.trans (bit_eq_of_mem_keyWrites hm))
    · exact hn (mem_flagKeys_of_mem_keyWrites hm)
  · exact exec_f_bit h fun fl _ _ hbit => hn (hbit ▸ fl.bit_mem)
  · simp only [List.mem_cons, List.not_mem_nil, or_false] at hi
    rcases hi with rfl | rfl | rfl
    · exact (fpar_writesFlag b).other_bits h fun e => hn (e ▸ by decide)
    · exact (fzero_writesFlag b).other_bits h fun e => hn (e ▸ by decide)
    · exact (fsign_writesFlag b).other_bits h fun e => hn (e ▸ by decide)
  · have hinv : t.inv = true :=
      run_keeps (P := fun s => s.inv = true) stepKeepsTheInvariant n
        (resetMeetsTheInvariant presented) h
    obtain ⟨hf, -⟩ := t.inv_iff.mp hinv
    exact (flagWordOk_iff t.f).mp hf

/-- Settles O14: a key that is not addressable names no flag, and each of the four commands raises its
own error then. -/
theorem namedAndIndexedKeysErrDifferently : Obligations.NamedAndIndexedKeysErrDifferently := by
  refine ⟨flagOfKeyAt?_isSome, rfl, fun k b s h => ?_⟩
  have hk : flagOfKey? k = none := flagOfKey?_eq_none_of_not_mem h
  exact ⟨(mem_otherKeys k).mpr hk, fset_raises_invalidFlag hk s, fclr_raises_invalidFlag hk s,
    fget_raises_outOfRangeFlag hk s, fput_raises_outOfRangeFlag hk b s⟩

/-- Settles O20: each combinator writes one flag, and writes to different flags commute, so that every
order gives P, Z and S written in turn. -/
theorem combinatorsWriteTheirOwnFlagInAnyOrder :
    Obligations.CombinatorsWriteTheirOwnFlagInAnyOrder := by
  refine ⟨fun b s t => ⟨fun h n _ => (fpar_writesFlag b).other_bits h,
    fun h n _ => (fzero_writesFlag b).other_bits h,
    fun h n _ => (fsign_writesFlag b).other_bits h⟩, fun b s => ?_⟩
  refine ⟨writeFlag (writeFlag (writeFlag s.f .p (parityFlag b)) .z (zeroFlag b)) .s (neg b),
    fun n hn => ?_, fun order ho => ?_⟩
  · have hfree : ∀ m ∈ [0, 1, 3, 4, 5], m ≠ Flag.p.bit ∧ m ≠ Flag.z.bit ∧ m ≠ Flag.s.bit := by
      decide
    obtain ⟨hp, hz, hs⟩ := hfree n hn
    simp only [getLsbD_writeFlag, if_neg hp, if_neg hz, if_neg hs]
  · have hzp := fun f => writeFlag_comm f (fl := .z) (fl' := .p) (zeroFlag b) (parityFlag b) nofun
    have hsp := fun f => writeFlag_comm f (fl := .s) (fl' := .p) (neg b) (parityFlag b) nofun
    have hsz := fun f => writeFlag_comm f (fl := .s) (fl' := .z) (neg b) (zeroFlag b) nofun
    simp only [List.mem_cons, List.not_mem_nil, or_false] at ho
    rcases ho with rfl | rfl | rfl | rfl | rfl | rfl <;>
      simp only [Claims.execAll, fpar_writesFlag b _, fzero_writesFlag b _, fsign_writesFlag b _,
        hzp, hsp, hsz]

/-- Settles O39: each of the three commands writes the flag of its key, and FGET reads that flag as
written and the others as before. -/
theorem flagSetOrClearedIsReadBack : Obligations.FlagSetOrClearedIsReadBack := by
  intro s k j b hk hj hb i hi
  obtain ⟨fl, hfl⟩ := (mem_flagKeys k).mp hk
  obtain ⟨fl', hfl'⟩ := (mem_flagKeys j).mp hj
  obtain ⟨v, hw, hv⟩ : ∃ v, WritesFlag i.1 fl v ∧ i.2 = if v then 1 else 0 := by
    simp only [List.mem_cons, List.not_mem_nil, or_false] at hi
    rcases hi with rfl | rfl | rfl
    · exact ⟨true, fset_writesFlag hfl, rfl⟩
    · exact ⟨false, fclr_writesFlag hfl, rfl⟩
    · refine ⟨_, fput_writesFlag hfl hb, ?_⟩
      rcases eq_zero_or_one_of_toNat_le hb with rfl | rfl <;> rfl
  obtain ⟨t, ht, hresp⟩ := execAll_fget hw hfl s
  refine ⟨t, ht, by rw [hresp, hv, if_pos rfl], fun hne => ?_⟩
  have hother : fl' ≠ fl := fun e => hne (flagOfKey?_inj hfl (e ▸ hfl'))
  obtain ⟨u, hu, huresp⟩ := execAll_fget hw hfl' s
  exact ⟨u, _, hu, exec_fget hfl' s, by rw [huresp, if_neg hother]⟩

/-- Settles O10: an addressable key names the flag at its bit, which FSET writes; any other key raises
the error. -/
theorem fsetSetsTheNamedFlagOnly : Obligations.FsetSetsTheNamedFlagOnly := by
  refine ⟨fun _ => Laws.decodeRequest_fset, fun k s hk => ?_,
    fun k s hk => fset_raises_invalidFlag ((mem_otherKeys k).mp hk) s, rfl⟩
  obtain ⟨fl, hfl⟩ := (mem_flagKeys k).mp hk
  exact (flagOfKey?_eq_some k fl).mp hfl ▸ (fset_writesFlag hfl).bits s

/-- Settles O11: as for FSET, with 0 written. -/
theorem fclrClearsTheNamedFlagOnly : Obligations.FclrClearsTheNamedFlagOnly := by
  refine ⟨fun _ => Laws.decodeRequest_fclr, fun k s hk => ?_,
    fun k s hk => fclr_raises_invalidFlag ((mem_otherKeys k).mp hk) s, rfl⟩
  obtain ⟨fl, hfl⟩ := (mem_flagKeys k).mp hk
  exact (flagOfKey?_eq_some k fl).mp hfl ▸ (fclr_writesFlag hfl).bits s

/-- Settles O12: an addressable key names the flag at its bit, which FGET answers. -/
theorem fgetReadsTheFlag : Obligations.FgetReadsTheFlag := by
  refine ⟨fun _ => Laws.decodeRequest_fget, fun k s hk => ?_,
    fun k s hk => fget_raises_outOfRangeFlag ((mem_otherKeys k).mp hk) s, rfl⟩
  obtain ⟨fl, hfl⟩ := (mem_flagKeys k).mp hk
  exact (flagOfKey?_eq_some k fl).mp hfl ▸ exec_fget hfl s

/-- Settles O13: the key is checked first, then the value, and a value of 0 or 1 is written to the flag
at the key's bit. -/
theorem fputWritesZeroOrOne : Obligations.FputWritesZeroOrOne := by
  refine ⟨fun _ => Laws.decodeRequest_fput, fun k b s hk hb => ?_, fun k b s hk hb => ?_,
    fun k b s hk => fput_raises_outOfRangeFlag ((mem_otherKeys k).mp hk) b s, rfl, rfl⟩
  all_goals obtain ⟨fl, hfl⟩ := (mem_flagKeys k).mp hk
  · exact (flagOfKey?_eq_some k fl).mp hfl ▸ (fput_writesFlag hfl hb).bits s
  · exact fput_raises_invalidValue hfl hb s

/-- Settles O15: the five flags read 0 after the five writes, and the bits of no flag are as before. -/
theorem fclrallClearsTheFiveFlags : Obligations.FclrallClearsTheFiveFlags := by
  refine ⟨fun _ => Laws.decodeRequest_fclrall, fun s => ?_⟩
  have hfixed := s.commit_f_fixed (Flag.all.map (.flag · false))
  have hclear : ∀ fl, readFlag (s.commit (Flag.all.map (.flag · false))).f fl = false := fun fl =>
    (readFlag_commit_map s Flag.all false fl).trans (if_pos (by cases fl <;> decide))
  refine ⟨_, rfl, fun n hn => ?_, hfixed, fun h1 h4 h5 => flagWord_ext ?_ fun fl => ?_⟩
  · simp only [List.mem_cons, List.not_mem_nil, or_false] at hn
    rcases hn with rfl | rfl | rfl | rfl | rfl
    exacts [hclear .cy, hclear .p, hclear .ac, hclear .z, hclear .s]
  · simp only [List.forall_mem_cons] at hfixed ⊢
    obtain ⟨k1, k4, k5, -⟩ := hfixed
    exact ⟨k1.trans h1, k4.trans h4, k5.trans h5, nofun⟩
  · rw [hclear fl]
    cases fl <;> rfl

/-- Settles O16: the sequence is the five flags in the order of the iteration, and FITER writes
nothing. -/
theorem fiterReadsTheFiveFlagsInOrder : Obligations.FiterReadsTheFiveFlagsInOrder := by
  refine ⟨fun _ => Laws.decodeRequest_fiter, fun s => ⟨flagSequence s.f, ?_, rfl, rfl⟩,
    fun ac f => getLsbD_flagSequenceAt ac f (n := 2) rfl⟩
  have hbit {n : Nat} {fl : Flag} (h : Flag.all[n]? = some fl) :
      (flagSequence s.f).getLsbD n = s.f.getLsbD fl.bit := getLsbD_flagSequenceAt acPlacement s.f h
  exact ⟨hbit (n := 0) rfl, hbit (n := 1) rfl, hbit (n := 2) rfl, hbit (n := 3) rfl,
    hbit (n := 4) rfl⟩

/-- Settles O17: FPAR writes P, and the parity is that of the number of 1 bits. -/
theorem fparSetsParityFromTheByte : Obligations.FparSetsParityFromTheByte :=
  ⟨fun _ => Laws.decodeRequest_fpar, fun b s => parityFlag_eq b ▸ (fpar_writesFlag b).bits s⟩

/-- Settles O18: FZERO writes Z, and the test is that of the byte's number. -/
theorem fzeroSetsZeroFromTheByte : Obligations.FzeroSetsZeroFromTheByte :=
  ⟨fun _ => Laws.decodeRequest_fzero, fun b s => zeroFlag_eq b ▸ (fzero_writesFlag b).bits s⟩

/-- Settles O19: the later of FSIGN's two writes stays, and bit 7 is the test of the byte's number. -/
theorem fsignSetsSignFromBitSeven : Obligations.FsignSetsSignFromBitSeven :=
  ⟨fun _ => Laws.decodeRequest_fsign, fun b s => neg_eq b ▸ (fsign_writesFlag b).bits s⟩

end Sys2Proof.Proofs

/-! SUPPORT. A word and its two halves, and the field of an opcode byte, as numbers
(`spec/10_state.md` R31, R32, `spec/41_register_file.md` R146). -/

namespace Sys2Proof.Machine

/-- The high byte of a word, `w[15:8]`. -/
theorem toNat_highByte (w : Word) : (w.extractLsb' 8 8).toNat = w.toNat / 256 := by
  have hw := w.isLt
  rw [BitVec.extractLsb'_toNat, Nat.shiftRight_eq_div_pow]
  omega

/-- The low byte of a word, `w[7:0]`. -/
theorem toNat_lowByte (w : Word) : (w.extractLsb' 0 8).toNat = w.toNat % 256 :=
  BitVec.extractLsb'_toNat 0 8 w

/-- A word is its high byte above its low byte. -/
theorem highByte_append_lowByte (w : Word) : w.extractLsb' 8 8 ++ w.extractLsb' 0 8 = w :=
  (BitVec.extractLsb'_append_extractLsb'_eq_extractLsb' (start₁ := 0) (len₁ := 8) rfl).trans
    BitVec.extractLsb'_eq_self

/-- The value of a pair is the cell of `hi` above the cell of `lo` (R31). -/
theorem Cells.pair_eq_append (c : Cells) (p : PairDesc) :
    c.pair p = c.read p.hi ++ c.read p.lo := by
  apply BitVec.eq_of_toNat_eq
  rw [Cells.pair_toNat, BitVec.toNat_append, ← Nat.shiftLeft_add_eq_or_of_lt (c.read p.lo).isLt,
    Nat.shiftLeft_eq]

/-- The opcode field is the three bits from the offset on, zero above the byte (R80, R146). -/
theorem toNat_opcodeField (b : Byte) (k : Code) :
    (opcodeField b k).toNat = b.toNat / 2 ^ k.toNat % 8 := by
  have hb : b.toNat % 65536 = b.toNat := Nat.mod_eq_of_lt (by omega)
  have hmask (n : Nat) : n &&& 7 = n % 8 := Nat.and_two_pow_sub_one_eq_mod n 3
  simp only [opcodeField, BitVec.toNat_setWidth, BitVec.toNat_and, BitVec.toNat_ushiftRight,
    Nat.shiftRight_eq_div_pow, BitVec.toNat_ofNat, Nat.reducePow, Nat.reduceMod, hmask, hb]
  omega

end Sys2Proof.Machine

/-! SUPPORT. The cells after a write and after reset, and the pairs that have an address-pair code
(`spec/10_state.md` R28, R32, R33). -/

namespace Sys2Proof.Machine

/-- Every cell is 0 after reset (R28). -/
theorem Cells.read_reset (r : Reg) : State.reset.cells.read r = 0 := by
  cases r <;> rfl

/-- One code in the tables of two sets of cells names one register in both. -/
theorem exists_reg_of_mem_cellsByCode {c c' : Cells} {j : Code} {old new : Byte}
    (hold : (j, old) ∈ Claims.cellsByCode c) (hnew : (j, new) ∈ Claims.cellsByCode c') :
    ∃ r : Reg, j = r.code ∧ old = c.read r ∧ new = c'.read r := by
  obtain ⟨r, rfl, rfl⟩ := (mem_cellsByCode c _ _).mp hold
  obtain ⟨r', hcode, rfl⟩ := (mem_cellsByCode c' _ _).mp hnew
  obtain rfl := Reg.code_inj.mp hcode
  exact ⟨r, rfl, rfl, rfl⟩

/-- A cell after the two writes of a pair: of two writes to one cell the low byte stays (R18, R32,
R145). -/
theorem State.read_commit_pairWrites (s : State) (p : PairDesc) (w : Word) (r : Reg) :
    (s.commit (pairWrites p w)).cells.read r =
      if r = p.lo then w.extractLsb' 0 8
      else if r = p.hi then w.extractLsb' 8 8 else s.cells.read r := by
  simp only [pairWrites, State.commit_cons, State.commit_nil, State.apply_cell_cells,
    Cells.read_write]

/-- A is in no pair that an address-pair code names (R33, R78). -/
theorem ne_a_of_pairOfAddrCode? {k : Code} {p : PairDesc} (h : pairOfAddrCode? k = some p) :
    p.hi ≠ .a ∧ p.lo ≠ .a := by
  have hall : ∀ k : Code, ∀ p ∈ pairOfAddrCode? k, p.hi ≠ .a ∧ p.lo ≠ .a := by decide
  exact hall k p h

end Sys2Proof.Machine

/-! SUPPORT. What each register command gives, said once: it raises one error in every state, or
reads or writes the cells that its codes name (`spec/41_register_file.md` R141 to R147). -/

namespace Sys2Proof.Machine

section

/-! The commands with codes that name cells or pairs. -/

variable (s : State)

theorem exec_rget (r : Reg) :
    exec (.rget r.code) s = .next { s with response := { r8 := s.cells.read r } } := by
  simp only [exec, execRget, storageReg?_code, finish_eq, State.commit_nil]

theorem exec_rput (r : Reg) (b : Byte) :
    exec (.rput r.code b) s = .next { s with cells := s.cells.write r b, response := {} } := by
  simp only [exec, execRput, storageReg?_code, finish_eq]
  rfl

theorem exec_paddr {k : Code} {p : PairDesc} (hk : pairOfAddrCode? k = some p) :
    exec (.paddr k) s =
      .next { s with response := { r16 := s.cells.read p.hi ++ s.cells.read p.lo } } := by
  simp only [exec, execPaddr, hk, finish_eq, State.commit_nil, Cells.pair_eq_append]

theorem exec_pget (hi lo : Reg) :
    exec (.pget hi.code lo.code) s =
      .next { s with response := { r16 := s.cells.read hi ++ s.cells.read lo } } := by
  simp only [exec, execPget, pairOfCodes?_code, finish_eq, State.commit_nil, Cells.pair_eq_append]

theorem exec_pput (hi lo : Reg) (w : Word) :
    exec (.pput hi.code lo.code w) s =
      .next { s with cells := (s.commit (pairWrites ⟨hi, lo⟩ w)).cells, response := {} } := by
  simp only [exec, execPput, pairOfCodes?_code, finish_eq]
  rfl

theorem exec_psel {sel : Selector} {p : PairDesc} (hsel : pairOfSel? sel = some p) :
    exec (.psel sel) s = .next { s with response := { dhi := p.hi.code, dlo := p.lo.code } } := by
  simp only [exec, execPsel, hsel, finish_eq, State.commit_nil]

end

theorem rget_raises_invalidRegister : Raises (.rget 6) .invalidRegister := fun _ => rfl

theorem rput_raises_invalidRegister (b : Byte) : Raises (.rput 6 b) .invalidRegister := fun _ => rfl

theorem psel_raises_invalidPair : Raises (.psel 3) .invalidPair := fun _ => rfl

theorem paddr_raises_invalidPair {k : Code} (hk : pairOfAddrCode? k = none) :
    Raises (.paddr k) .invalidPair := fun _ => by
  simp only [exec, execPaddr, hk, raise_eq]
  rfl

section

/-! The commands with a descriptor in which one code has no cell. -/

variable {phi plo : Code} (h : phi = 6 ∨ plo = 6)
include h

theorem pget_raises_invalidRegister : Raises (.pget phi plo) .invalidRegister := fun _ => by
  simp only [exec, execPget, (pairOfCodes?_eq_none phi plo).mpr h, raise_eq]
  rfl

theorem pput_raises_invalidRegister (w : Word) : Raises (.pput phi plo w) .invalidRegister :=
  fun _ => by
    simp only [exec, execPput, (pairOfCodes?_eq_none phi plo).mpr h, raise_eq]
    rfl

end

/-- Two commands in a row (R58). -/
theorem execAll_two {i j : Instr} {s t u : State} (hi : exec i s = .next t)
    (hj : exec j t = .next u) : Claims.execAll [i, j] s = .next u :=
  (execAll_cons hi [j]).trans (execAll_cons hj [])

end Sys2Proof.Machine

/-! SUPPORT. Which commands write cells, and which depend on them (`spec/41_register_file.md`
R148). -/

namespace Sys2Proof.Machine

/-- A command other than RPUT and PPUT has no cell write pending. -/
theorem cell_not_mem_pendingWritesOf {i : Instr} (hput : ∀ k b, i ≠ .rput k b)
    (hpair : ∀ phi plo w, i ≠ .pput phi plo w) (r : Reg) (v : Byte) :
    PendingWrite.cell r v ∉ pendingWritesOf i := by
  cases i
  case rput k b => exact absurd rfl (hput k b)
  case pput phi plo w => exact absurd rfl (hpair phi plo w)
  case fset | fclr | fput => simp [pendingWritesOf, keyWrites]
  all_goals simp [pendingWritesOf]

/-- A command that raises an error answers that error. -/
theorem response_of_raise {e : ErrorKind} {s t : State} (h : raise e s = .next t) :
    t.response = { err := some e } := by
  obtain rfl := Host.Outcome.next.inj h
  rfl

/-- A command that finishes answers what it finishes with. -/
theorem response_of_finish {ws : List PendingWrite} {r : Response} {s t : State}
    (h : finish ws r s = .next t) : t.response = r := by
  obtain rfl := Host.Outcome.next.inj h
  rfl

/-- A command of the register part other than RGET, PADDR and PGET answers alike in every state. -/
theorem exec_response_const {i : Instr} (hop : (encode i).getLsbD 4 = true)
    (hget : ∀ k, i ≠ .rget k) (haddr : ∀ k, i ≠ .paddr k) (hpair : ∀ phi plo, i ≠ .pget phi plo) :
    ∃ r, ∀ s t, exec i s = .next t → t.response = r := by
  rw [getLsbD_encode_four] at hop
  cases i <;> simp only [exec]
  case rget k => exact absurd rfl (hget k)
  case paddr k => exact absurd rfl (haddr k)
  case pget phi plo => exact absurd rfl (hpair phi plo)
  case rput k b =>
    unfold execRput
    cases storageReg? k
    exacts [⟨_, fun _ _ => response_of_raise⟩, ⟨_, fun _ _ => response_of_finish⟩]
  case pput phi plo w =>
    unfold execPput
    cases pairOfCodes? phi plo
    exacts [⟨_, fun _ _ => response_of_raise⟩, ⟨_, fun _ _ => response_of_finish⟩]
  case psel sel =>
    unfold execPsel
    cases pairOfSel? sel
    exacts [⟨_, fun _ _ => response_of_raise⟩, ⟨_, fun _ _ => response_of_finish⟩]
  case ropc b k => exact ⟨_, fun _ _ => response_of_finish⟩
  case nop | fset | fclr | fget | fput | fclrall | fiter | fpar | fzero | fsign =>
    simp [Instr.opNumber, Nat.testBit] at hop
  all_goals exact ⟨_, fun _ _ => response_of_raise⟩

/-- The response of a command other than RGET, PADDR and PGET does not depend on the cells. -/
theorem exec_response_withCells {i : Instr} (hget : ∀ k, i ≠ .rget k) (haddr : ∀ k, i ≠ .paddr k)
    (hpair : ∀ phi plo, i ≠ .pget phi plo) {s t t' : State} {c : Cells} (h : exec i s = .next t)
    (h' : exec i { s with cells := c } = .next t') : t'.response = t.response := by
  cases hop : (encode i).getLsbD 4 with
  | false =>
    obtain rfl := Host.Outcome.next.inj ((exec_withCells hop h c).symm.trans h')
    rfl
  | true =>
    obtain ⟨r, hr⟩ := exec_response_const hop hget haddr hpair
    exact (hr _ _ h').trans (hr _ _ h).symm

/-- PADDR does not depend on the cell of A (R148). -/
theorem paddr_response_withA {k : Code} {x : Byte} {s t t' : State}
    (h : exec (.paddr k) s = .next t)
    (h' : exec (.paddr k) { s with cells := s.cells.write .a x } = .next t') :
    t'.response = t.response := by
  cases hk : pairOfAddrCode? k with
  | none =>
    rw [paddr_raises_invalidPair hk] at h h'
    rw [← Host.Outcome.next.inj h, ← Host.Outcome.next.inj h']
  | some p =>
    obtain ⟨hhi, hlo⟩ := ne_a_of_pairOfAddrCode? hk
    rw [exec_paddr _ hk] at h h'
    rw [← Host.Outcome.next.inj h, ← Host.Outcome.next.inj h']
    simp only [Cells.read_write, if_neg hhi, if_neg hlo]

end Sys2Proof.Machine

/-! SUPPORT. The rows of the decoder for the register commands (`spec/30_encoding.md` R70, R72). -/

namespace Sys2Proof.Laws

open Sys2Proof

variable {w : RequestWord}

theorem decodeRequest_rget (h : fieldOp w = 0x10) : decodeRequest w = .rget (fieldK w) := by
  rw [decodeRequest, h]; rfl

theorem decodeRequest_rput (h : fieldOp w = 0x11) :
    decodeRequest w = .rput (fieldK w) (fieldB w) := by
  rw [decodeRequest, h]; rfl

theorem decodeRequest_paddr (h : fieldOp w = 0x12) : decodeRequest w = .paddr (fieldK w) := by
  rw [decodeRequest, h]; rfl

theorem decodeRequest_pget (h : fieldOp w = 0x13) :
    decodeRequest w = .pget (fieldPhi w) (fieldPlo w) := by
  rw [decodeRequest, h]; rfl

theorem decodeRequest_pput (h : fieldOp w = 0x14) :
    decodeRequest w = .pput (fieldPhi w) (fieldPlo w) (fieldW w) := by
  rw [decodeRequest, h]; rfl

theorem decodeRequest_ropc (h : fieldOp w = 0x15) :
    decodeRequest w = .ropc (fieldB w) (fieldK w) := by
  rw [decodeRequest, h]; rfl

theorem decodeRequest_psel (h : fieldOp w = 0x16) : decodeRequest w = .psel (fieldSel w) := by
  rw [decodeRequest, h]; rfl

end Sys2Proof.Laws

/-! The statements of `spec/41_register_file.md`, settled. -/

namespace Sys2Proof.Proofs

open Sys2Proof.Machine

/-- Settles O25: two storage codes are two registers, whose cells the two writes give the halves of
the word (`State.read_commit_pairWrites`); a code 6 raises the error. -/
theorem pputWritesBothCellsOrNone : Obligations.PputWritesBothCellsOrNone := by
  refine ⟨fun _ => Laws.decodeRequest_pput, fun s phi plo w hphi hplo => ?_,
    fun s phi plo w h => pput_raises_invalidRegister h w s, rfl⟩
  obtain ⟨hi, rfl⟩ := exists_reg_of_ne_six hphi
  obtain ⟨lo, rfl⟩ := exists_reg_of_ne_six hplo
  refine ⟨_, exec_pput s hi lo w, fun j old new hold hnew => ?_⟩
  obtain ⟨r, rfl, rfl, rfl⟩ := exists_reg_of_mem_cellsByCode hold hnew
  simp only [State.read_commit_pairWrites, Reg.code_inj, apply_ite BitVec.toNat, toNat_lowByte,
    toNat_highByte]

/-- Settles O40: the two codes of the pair are two registers, and PGET and RGET read the cells that
RPUT and PPUT write. -/
theorem pairViewsAliasTheCells : Obligations.PairViewsAliasTheCells := by
  intro s x w hi lo old hpair hold
  obtain ⟨hsix, hne⟩ : hi ≠ 6 ∧ hi ≠ lo := by
    simp only [List.mem_cons, Prod.mk.injEq, List.not_mem_nil, or_false] at hpair
    rcases hpair with ⟨rfl, rfl⟩ | ⟨rfl, rfl⟩ | ⟨rfl, rfl⟩ <;> decide
  obtain ⟨high, rfl⟩ := exists_reg_of_ne_six hsix
  obtain ⟨low, rfl, rfl⟩ := (mem_cellsByCode _ _ _).mp hold
  have hhl : high ≠ low := mt Reg.code_inj.mpr hne
  refine ⟨⟨_, execAll_two (exec_rput s high x) (exec_pget _ high low), ?_⟩,
    ⟨_, execAll_two (exec_pput s high low w) (exec_rget _ high), ?_, rfl⟩,
    ⟨_, execAll_two (exec_pput s high low w) (exec_rget _ low), ?_, rfl⟩⟩
  · simp only [Cells.read_write, if_true, if_neg hhl.symm]
  · simp only [State.read_commit_pairWrites, if_neg hhl, if_true, toNat_highByte]
  · simp only [State.read_commit_pairWrites, if_true, toNat_lowByte]

/-- Settles O41: PGET reads the two cells that PPUT of its descriptor writes, and where they are one
cell that cell holds the low byte. -/
theorem pairWrittenIsReadBack : Obligations.PairWrittenIsReadBack := by
  intro s phi plo w hphi hplo
  obtain ⟨hi, rfl⟩ := exists_reg_of_ne_six hphi
  obtain ⟨lo, rfl⟩ := exists_reg_of_ne_six hplo
  refine ⟨_, execAll_two (exec_pput s hi lo w) (exec_pget _ hi lo), ?_⟩
  simp only [State.read_commit_pairWrites, Reg.code_inj, if_true]
  by_cases h : hi = lo
  · simp only [if_pos h]
  · simp only [if_neg h, highByte_append_lowByte]

/-- Settles O50: only RPUT and PPUT have cell writes pending, the other commands' responses are made
without the cells, a code 6 raises the error, and A is in no pair of PADDR. -/
theorem codeSixHasNoCell : Obligations.CodeSixHasNoCell := by
  refine ⟨fun i s t h => ⟨fun hput hpair => ?_, fun hget haddr hpair c t' h' =>
    exec_response_withCells hget haddr hpair h h'⟩, fun s i k b w hi => ?_,
    fun s t t' k x => paddr_response_withA⟩
  · exact Cells.ext_read fun r => exec_read_cell h (cell_not_mem_pendingWritesOf hput hpair r)
  · simp only [List.mem_cons, List.not_mem_nil, or_false] at hi
    rcases hi with rfl | rfl | rfl | rfl | rfl | rfl
    exacts [rget_raises_invalidRegister s, rput_raises_invalidRegister b s,
      pget_raises_invalidRegister (.inl rfl) s, pget_raises_invalidRegister (.inr rfl) s,
      pput_raises_invalidRegister (.inl rfl) w s, pput_raises_invalidRegister (.inr rfl) w s]

/-- Settles O21: a row of the cells' table is a register and its cell, which RGET answers. -/
theorem rgetReadsTheCell : Obligations.RgetReadsTheCell := by
  refine ⟨fun _ => Laws.decodeRequest_rget, fun s k v hv => ?_, rget_raises_invalidRegister,
    fun k hk => ?_, rfl⟩
  · obtain ⟨r, rfl, rfl⟩ := (mem_cellsByCode _ _ _).mp hv
    exact exec_rget s r
  · obtain ⟨r, rfl⟩ := exists_reg_of_ne_six hk
    exact Cells.read_reset r ▸ exec_rget State.reset r

/-- Settles O22: RPUT writes the cell of its register, and a cell write leaves the other cells
(`Cells.read_write`). -/
theorem rputWritesTheCellOnly : Obligations.RputWritesTheCellOnly := by
  refine ⟨fun _ => Laws.decodeRequest_rput, fun s k b hk => ?_,
    fun s b => rput_raises_invalidRegister b s, rfl⟩
  obtain ⟨r, rfl⟩ := exists_reg_of_ne_six hk
  refine ⟨_, exec_rput s r b, fun j old new hold hnew => ?_⟩
  obtain ⟨r', rfl, rfl, rfl⟩ := exists_reg_of_mem_cellsByCode hold hnew
  simp only [Cells.read_write, Reg.code_inj]

/-- Settles O23: the three codes name BC, DE and HL, and the other five name no pair. -/
theorem paddrFormsTheAddressOfAPair : Obligations.PaddrFormsTheAddressOfAPair := by
  refine ⟨fun _ => Laws.decodeRequest_paddr, fun s => ⟨exec_paddr s (p := pairBC) rfl,
    exec_paddr s (p := pairDE) rfl, exec_paddr s (p := pairHL) rfl⟩, fun s k hk => ?_, rfl⟩
  simp only [List.mem_cons, List.not_mem_nil, or_false] at hk
  exact paddr_raises_invalidPair ((pairOfAddrCode?_eq_none k).mpr hk) s

/-- Settles O24: two rows of the cells' table are two registers, whose cells PGET answers; PADDR of
a pair's high code answers the same two cells. -/
theorem pgetReadsAnyTwoCells : Obligations.PgetReadsAnyTwoCells := by
  refine ⟨fun _ => Laws.decodeRequest_pget, fun s phi plo hi lo hhi hlo => ?_,
    fun s phi plo h => pget_raises_invalidRegister h s, fun s => ?_, rfl⟩
  · obtain ⟨r, rfl, rfl⟩ := (mem_cellsByCode _ _ _).mp hhi
    obtain ⟨r', rfl, rfl⟩ := (mem_cellsByCode _ _ _).mp hlo
    exact exec_pget s r r'
  · exact ⟨(exec_pget s .b .c).trans (exec_paddr s (p := pairBC) rfl).symm,
      (exec_pget s .d .e).trans (exec_paddr s (p := pairDE) rfl).symm,
      (exec_pget s .h .l).trans (exec_paddr s (p := pairHL) rfl).symm⟩

/-- Settles O26: ROPC answers the opcode field, whatever the state. -/
theorem ropcExtractsTheRegisterField : Obligations.RopcExtractsTheRegisterField :=
  ⟨fun _ => Laws.decodeRequest_ropc,
    fun b k => ⟨opcodeField b k, toNat_opcodeField b k, fun _ => rfl⟩⟩

/-- Settles O27: the selectors 0, 1, 2 name BC, DE and HL, whose codes PSEL answers, and 3 names no
pair; the address-pair code 2 names DE. -/
theorem pselMapsTheSelectorToItsPair : Obligations.PselMapsTheSelectorToItsPair :=
  ⟨fun _ => Laws.decodeRequest_psel,
    fun s => ⟨exec_psel s (p := pairBC) rfl, exec_psel s (p := pairDE) rfl,
      exec_psel s (p := pairHL) rfl, psel_raises_invalidPair s, exec_paddr s (p := pairDE) rfl⟩,
    rfl⟩

end Sys2Proof.Proofs

/-! SUPPORT. The idle command and the reserved command numbers (`spec/30_encoding.md` R73,
`spec/42_command_control.md` R180, R181). -/

namespace Sys2Proof.Laws

open Sys2Proof

/-- The command number is the low five bits of the request word (R70). -/
theorem toNat_fieldOp (w : RequestWord) : (fieldOp w).toNat = w.toNat % 32 :=
  BitVec.extractLsb'_toNat ..

theorem decodeRequest_nop {w : RequestWord} (h : fieldOp w = 0x00) : decodeRequest w = .nop := by
  rw [decodeRequest, h]; rfl

end Sys2Proof.Laws

namespace Sys2Proof.Machine

/-- The command numbers that R73 reserves. -/
abbrev IsReservedNumber (n : Nat) : Prop := (0x0A ≤ n ∧ n ≤ 0x0F) ∨ 0x17 ≤ n

/-- NOP has no pending write, and answers zero (R180). -/
theorem exec_nop (s : State) : exec .nop s = .next { s with response := {} } := by
  simp only [exec, execNop, finish_eq, State.commit_nil]

/-- A command with a reserved number raises IllegalCommand in every state (R181). -/
theorem raises_illegalCommand {i : Instr} (h : IsReservedNumber i.opNumber) :
    Raises i .illegalCommand := by
  cases i
  case reserved0A | reserved0B | reserved0C | reserved0D | reserved0E | reserved0F | reserved17 |
      reserved18 | reserved19 | reserved1A | reserved1B | reserved1C | reserved1D | reserved1E |
      reserved1F => exact fun _ => rfl
  all_goals simp [IsReservedNumber, Instr.opNumber] at h

end Sys2Proof.Machine

/-! The statements of `spec/42_command_control.md`, settled. -/

namespace Sys2Proof.Proofs

open Sys2Proof.Machine

/-- Settles O28: the decoder answers the command whose number the word holds, and a command with a
reserved number raises IllegalCommand in every state. -/
theorem reservedNumbersRaiseIllegalCommand : Obligations.ReservedNumbersRaiseIllegalCommand := by
  refine ⟨fun w s hw => ?_, fun i s hi => ?_, rfl, rfl⟩
  · have hop : (decodeRequest w).opNumber = w.toNat % 32 :=
      (Laws.opNumber_decodeRequest w).trans (Laws.toNat_fieldOp w)
    rw [step_present]
    exact raises_illegalCommand (hop ▸ hw) s.takePresented
  · have hop : IsReservedNumber i.opNumber := by
      revert i
      decide
    exact raises_illegalCommand hop s

/-- Settles O9: NOP has the number 0 and no pending write. -/
theorem nopChangesNothingAndAnswersZero : Obligations.NopChangesNothingAndAnswersZero :=
  ⟨fun _ => Laws.decodeRequest_nop, exec_nop, rfl⟩

end Sys2Proof.Proofs

/-! SUPPORT. The error of every command, said once against the statements' table, and what a cycle
makes of the engine's list and of the last response (`spec/60_exceptions.md` R200 to R209, R216). -/

namespace Sys2Proof.Machine

/-- In every state the command `i` completes and answers no error. -/
abbrev Succeeds (i : Instr) : Prop :=
  ∀ s, ∃ t, exec i s = .next t ∧ t.response.err = none

/-- In every state the command `i` raises the error given, or succeeds where none is given. -/
def AnswersError (i : Instr) : Option ErrorKind → Prop
  | some e => Raises i e
  | none => Succeeds i

theorem WritesFlag.succeeds {i : Instr} {fl : Flag} {v : Bool} (h : WritesFlag i fl v) :
    Succeeds i :=
  fun s => ⟨_, h s, rfl⟩

section

/-! The three forms of a table row whose operands are looked up: a key, a code, two codes. -/

variable {i : Instr} {e : ErrorKind}

theorem AnswersError.of_key {k : Code} (hflag : ∀ {fl}, flagOfKey? k = some fl → Succeeds i)
    (hnone : flagOfKey? k = none → Raises i e) :
    AnswersError i (if k ∈ Claims.flagKeys then none else some e) := by
  split
  next hk =>
    obtain ⟨fl, hfl⟩ := (mem_flagKeys k).mp hk
    exact hflag hfl
  next hk => exact hnone (flagOfKey?_eq_none_of_not_mem hk)

theorem AnswersError.of_code {k : Code} (hsix : k = 6 → Raises i e)
    (hreg : ∀ r : Reg, k = r.code → Succeeds i) :
    AnswersError i (if k = 6 then some e else none) := by
  split
  next hk => exact hsix hk
  next hk =>
    obtain ⟨r, hr⟩ := exists_reg_of_ne_six hk
    exact hreg r hr

theorem AnswersError.of_codes {phi plo : Code} (hsix : phi = 6 ∨ plo = 6 → Raises i e)
    (hregs : ∀ hi lo : Reg, phi = hi.code → plo = lo.code → Succeeds i) :
    AnswersError i (if phi = 6 ∨ plo = 6 then some e else none) := by
  split
  next h => exact hsix h
  next h =>
    obtain ⟨hphi, hplo⟩ := not_or.mp h
    obtain ⟨hi, hhi⟩ := exists_reg_of_ne_six hphi
    obtain ⟨lo, hlo⟩ := exists_reg_of_ne_six hplo
    exact hregs hi lo hhi hlo

end

/-- The codes that PADDR admits are those of a pair (R33, R78). -/
theorem pairOfAddrCode?_isSome (k : Code) :
    (pairOfAddrCode? k).isSome = true ↔ k = 0 ∨ k = 2 ∨ k = 4 := by
  revert k
  decide

/-- The error of a command is the one the table gives its operands, in every state (R201 to R205,
R207). -/
theorem answersError_errorOf (i : Instr) : AnswersError i (Claims.errorOf i) := by
  cases i <;> simp only [Claims.errorOf]
  case fset k =>
    exact .of_key (fun hk => (fset_writesFlag hk).succeeds) fset_raises_invalidFlag
  case fclr k =>
    exact .of_key (fun hk => (fclr_writesFlag hk).succeeds) fclr_raises_invalidFlag
  case fget k =>
    exact .of_key (fun hk s => ⟨_, exec_fget hk s, rfl⟩) fget_raises_outOfRangeFlag
  case fput k b =>
    split
    next hk => exact fput_raises_outOfRangeFlag (flagOfKey?_eq_none_of_not_mem hk) b
    next hk =>
      obtain ⟨fl, hfl⟩ := (mem_flagKeys k).mp (not_not.mp hk)
      split
      next hb => exact (fput_writesFlag hfl hb).succeeds
      next hb => exact fput_raises_invalidValue hfl (Nat.lt_of_not_le hb)
  case rget k =>
    refine .of_code ?_ ?_
    · rintro rfl
      exact rget_raises_invalidRegister
    · rintro r rfl
      exact fun s => ⟨_, exec_rget s r, rfl⟩
  case rput k b =>
    refine .of_code ?_ ?_
    · rintro rfl
      exact rput_raises_invalidRegister b
    · rintro r rfl
      exact fun s => ⟨_, exec_rput s r b, rfl⟩
  case paddr k =>
    split
    next hk =>
      obtain ⟨p, hp⟩ := Option.isSome_iff_exists.mp ((pairOfAddrCode?_isSome k).mpr hk)
      exact fun s => ⟨_, exec_paddr s hp, rfl⟩
    next hk =>
      exact paddr_raises_invalidPair
        (Option.not_isSome_iff_eq_none.mp (mt (pairOfAddrCode?_isSome k).mp hk))
  case pget phi plo =>
    refine .of_codes pget_raises_invalidRegister ?_
    rintro hi lo rfl rfl
    exact fun s => ⟨_, exec_pget s hi lo, rfl⟩
  case pput phi plo w =>
    refine .of_codes (pput_raises_invalidRegister · w) ?_
    rintro hi lo rfl rfl
    exact fun s => ⟨_, exec_pput s hi lo w, rfl⟩
  case psel sel =>
    split
    next hsel => exact hsel ▸ psel_raises_invalidPair
    next hsel =>
      obtain ⟨p, hp⟩ := Option.ne_none_iff_exists'.mp (mt (pairOfSel?_eq_none sel).mp hsel)
      exact fun s => ⟨_, exec_psel s hp, rfl⟩
  case nop => exact fun s => ⟨_, exec_nop s, rfl⟩
  case fpar b => exact (fpar_writesFlag b).succeeds
  case fzero b => exact (fzero_writesFlag b).succeeds
  case fsign b => exact (fsign_writesFlag b).succeeds
  case fclrall | fiter | ropc => exact fun _ => ⟨_, rfl, rfl⟩
  all_goals exact raises_illegalCommand (by decide)

/-- The response word of an error is its number at bit 35 (R74, R208). -/
theorem word_errorAnswer (e : ErrorKind) :
    (Claims.errorAnswer e).word = BitVec.ofNat 40 (e.code.toNat * 2 ^ 35) := by
  cases e <;> rfl

/-- A response of the invariant's shape carries no TypeMismatch (R206). -/
theorem Response.err_ne_typeMismatch {r : Response} (h : r.ok = true) :
    r.err ≠ some .typeMismatch := by
  intro herr
  simp [Response.ok, herr] at h

/-- The response of a cycle has the shape of a response, whatever the state before it (R74, R206). -/
theorem step_response_ok {s t : State} (h : step s = .next t) : t.response.ok = true := by
  rcases step_cases s with ⟨-, hx⟩ | ⟨-, hx⟩
  · obtain rfl := Host.Outcome.next.inj (hx.symm.trans h)
    exact Response.ok_of_err_none rfl
  · exact exec_response_ok (hx.symm.trans h)

/-- A cycle takes one presented cycle off the engine's list. -/
theorem step_requests {s t : State} (h : step s = .next t) : t.requests = s.requests.tail := by
  rcases step_cases s with ⟨-, hx⟩ | ⟨-, hx⟩
  · obtain rfl := Host.Outcome.next.inj (hx.symm.trans h)
    rfl
  · exact exec_requests (hx.symm.trans h)

/-- A cycle does not read the last response (R38, R209). -/
theorem step_withResponse (s : State) (r : Response) :
    step { s with response := r } = step s := by
  have hcmd := exec_withResponse (decodeRequest s.presented.req) s.takePresented r
  rcases step_cases s with ⟨hrst, hx⟩ | ⟨hrst, hx⟩
  · rw [hx]
    exact if_pos hrst
  · rw [hx, ← hcmd]
    exact if_neg (Bool.eq_false_iff.mp hrst)

end Sys2Proof.Machine

/-! The statements of `spec/60_exceptions.md`, settled. -/

namespace Sys2Proof.Proofs

open Sys2Proof.Machine

/-- Settles O29: a command raises its table error in every state, or succeeds in every state where the
table gives none (`answersError_errorOf`). -/
theorem errorsExactlyWhenTheRulesSay : Obligations.ErrorsExactlyWhenTheRulesSay := by
  refine ⟨fun i s t h => ?_, rfl, rfl, rfl, rfl, rfl, rfl⟩
  have hi := answersError_errorOf i
  cases herr : Claims.errorOf i with
  | none =>
    rw [herr] at hi
    obtain ⟨t', ht', hnone⟩ := hi s
    obtain rfl := Host.Outcome.next.inj (ht'.symm.trans h)
    exact ⟨hnone, fun e he => by simp [hnone] at he⟩
  | some e =>
    rw [herr] at hi
    obtain rfl := Host.Outcome.next.inj ((hi s).symm.trans h)
    refine ⟨rfl, fun e' he' => ?_⟩
    obtain rfl := Option.some.inj he'
    exact ⟨rfl, word_errorAnswer e⟩

/-- Settles O30: the response of a command and of a cycle has the shape that the invariant asks for,
which excludes TypeMismatch. -/
theorem typeMismatchIsNeverProduced : Obligations.TypeMismatchIsNeverProduced :=
  ⟨rfl, fun _ _ _ h => Response.err_ne_typeMismatch (exec_response_ok h),
    fun _ _ h => Response.err_ne_typeMismatch (step_response_ok h)⟩

/-- Settles O31: neither a command nor a cycle reads the last response. -/
theorem errorsAreNotSticky : Obligations.ErrorsAreNotSticky :=
  fun s r => ⟨fun i => exec_withResponse i s r, step_withResponse s r⟩

/-- Settles O32: commands and cycles have a next state, a command leaves the engine's list and a cycle
takes its own entry off it. -/
theorem everyCommandCompletesInEveryState : Obligations.EveryCommandCompletesInEveryState := by
  refine ⟨fun i s => ?_, fun s => ?_⟩
  · obtain ⟨t, ht⟩ := exec_completes i s
    exact ⟨t, ht, exec_requests ht⟩
  · obtain ⟨t, ht⟩ := step_completes s
    exact ⟨t, ht, step_requests ht⟩

end Sys2Proof.Proofs

/-! SUPPORT. One cycle by what the engine presents in it (`spec/70_reset_and_hazards.md` R240 to R243,
R250), and runs of reset cycles. -/

namespace Sys2Proof.Machine

section

/-! A state whose list begins with `c`. -/

variable {s : State} {c : PortCycle} {rest : List PortCycle} (h : s.requests = c :: rest)
include h

theorem State.presented_of_requests : s.presented = c := by
  rw [State.presented, h, List.head?_cons, Option.getD_some]

theorem State.takePresented_of_requests : s.takePresented = { s with requests := rest } := by
  rw [State.takePresented, h, List.tail_cons]

end

/-- A reset edge leaves the reset state, but for what the engine presents next (R240 to R242). -/
theorem State.resetEdge_eq (s : State) : s.resetEdge = { State.reset with requests := s.requests } :=
  rfl

/-- A cycle with `rst = 1` is a reset edge, whatever its request word (R240, R241). -/
theorem step_of_rst {s : State} {w : RequestWord} {rest : List PortCycle}
    (h : s.requests = { rst := true, req := w } :: rest) :
    step s = .next { State.reset with requests := rest } := by
  have hpres := State.presented_of_requests h
  rcases step_cases s with ⟨-, hx⟩ | ⟨hrst, -⟩
  · rw [hx, State.resetEdge_eq, State.takePresented_of_requests h]
  · simp [hpres] at hrst

/-- A cycle with `rst = 0` runs the command that its request word decodes to (R250). -/
theorem step_of_not_rst {s : State} {w : RequestWord} {rest : List PortCycle}
    (h : s.requests = { rst := false, req := w } :: rest) :
    step s = exec (decodeRequest w) { s with requests := rest } := by
  have hpres := State.presented_of_requests h
  rcases step_cases s with ⟨hrst, -⟩ | ⟨-, hx⟩
  · simp [hpres] at hrst
  · rw [hx, hpres, State.takePresented_of_requests h]

/-- A cycle in which the engine presents nothing runs NOP (R180). -/
theorem step_of_requests_nil {s : State} (h : s.requests = []) : step s = exec .nop s := by
  have hpres : s.presented = PortCycle.idle := by
    rw [State.presented, h, List.head?_nil, Option.getD_none]
  have htake : s.takePresented = s := by rw [State.takePresented, h, List.tail_nil, ← h]
  have hnop : decodeRequest PortCycle.idle.req = .nop := Laws.decodeRequest_nop (by decide)
  rcases step_cases s with ⟨hrst, -⟩ | ⟨-, hx⟩
  · simp [hpres, PortCycle.idle] at hrst
  · rw [hx, hpres, htake, hnop]

/-- Reset cycles from the reset state leave it, and take themselves off the engine's list. -/
theorem run_holdReset_from_reset (ws : List RequestWord) (rest : List PortCycle) :
    Host.Core.run Sys2Proof.core ws.length
        { State.reset with requests := ws.map PortCycle.holdReset ++ rest } =
      .next { State.reset with requests := rest } := by
  induction ws with
  | nil => rfl
  | cons w ws ih => exact (run_succ_of_step (step_of_rst rfl) ws.length).trans ih

/-- A non-empty run of reset cycles ends in the reset state, from any state (R240, R243). -/
theorem run_holdReset {s : State} {ws : List RequestWord} {rest : List PortCycle} (hws : ws ≠ [])
    (h : s.requests = ws.map PortCycle.holdReset ++ rest) :
    Host.Core.run Sys2Proof.core ws.length s = .next { State.reset with requests := rest } := by
  cases ws with
  | nil => exact absurd rfl hws
  | cons w ws =>
    exact (run_succ_of_step (step_of_rst h) ws.length).trans (run_holdReset_from_reset ws rest)

/-- Two commands presented one after the other: the second runs from the state that the first leaves
(R251). -/
theorem run_two {i j : Instr} {s t : State} {rest : List PortCycle}
    (h : exec i { s with requests := rest } = .next t) :
    Host.Core.run Sys2Proof.core 2
        { s with requests := { rst := false, req := encode i } ::
                   { rst := false, req := encode j } :: rest } = exec j t := by
  obtain ⟨t', ht', hrun⟩ := Proofs.commandsTakeEffectInOrder { s with requests := _ } i j rest rfl
  obtain rfl := Host.Outcome.next.inj (ht'.symm.trans h)
  exact hrun

end Sys2Proof.Machine

/-! The statements of `spec/70_reset_and_hazards.md`, settled. -/

namespace Sys2Proof.Proofs

open Sys2Proof.Machine

/-- Settles O3: the first reset edge gives the reset values whatever the state was, and the later ones
keep them (`run_holdReset`). -/
theorem bootFromUnknownStateReachesReset : Obligations.BootFromUnknownStateReachesReset :=
  fun _ _ hws => run_holdReset hws rfl

/-- Settles O45: the second command runs from the state that RPUT leaves, in which the cell written holds
the new value and the other cells are as before. -/
theorem writeIsVisibleToTheNextCommand : Obligations.WriteIsVisibleToTheNextCommand := by
  intro s k v rest hk
  obtain ⟨r, rfl⟩ := exists_reg_of_ne_six hk
  refine ⟨⟨_, (run_two (exec_rput _ r v)).trans (exec_rget _ r), ?_, rfl⟩,
    ⟨_, (run_two (exec_rput _ .h v)).trans (exec_paddr _ (p := pairHL) rfl), rfl, rfl⟩⟩
  simp only [Cells.read_write, if_true]

/-- Settles O2: a reset edge loads the reset values, whose response is that of no error and no driven
field. -/
theorem resetEdgeWinsOverTheRequest : Obligations.ResetEdgeWinsOverTheRequest :=
  fun _ _ _ h => ⟨{}, rfl, by decide, step_of_rst h⟩

/-- Settles O4: a presented cycle, an idle one, and one in which `withFetchWord` has put a word on the
port. -/
theorem stepRunsThePresentedCommand : Obligations.StepRunsThePresentedCommand :=
  ⟨fun _ _ _ => step_of_not_rst, fun _ => step_of_requests_nil,
    fun s nbits w => step_present s (BitVec.ofNat 40 (tableNumber nbits w))⟩

end Sys2Proof.Proofs
